-- ==== Sys2Proof/Word.lean ====
section
/-! DEFINITION. The word of the SPK64 protocol and the numbers of its participants (spec 00_scope R8, R11, R14). -/

namespace Sys2Proof

/-- One 64-bit unit of link transmission (R1, R11): bit `i` has weight `2^i`. -/
abbrev Word := BitVec 64

/-- The chip id of a real device instance, 0..14: the value 15 marks an empty word and names no chip
(R52, R145). -/
abbrev ChipId := Fin 15

/-- A chip id as the encode face accepts it, 0..15 (R123): 15 builds an empty word. -/
abbrev ReqId := Fin 16

end Sys2Proof
end

