-- ==== Sys2Proof/Config.lean ====
section
/-! DEFINITION. What an implementation fixes: the `Layout` record of 00_scope R9 with its well-formedness R10,
the field positions the source fixes (R8), and the constants left without a value (free values, OPEN parameters). -/

namespace Sys2Proof

/-- A field descriptor (R137): position of the least significant bit, and width. -/
structure Field where
  pos : Nat
  width : Nat
  deriving DecidableEq, Repr

/-- The field lies in bits `lo .. hi-1` (R10 (a)). -/
def Field.inside (lo hi : Nat) (f : Field) : Bool :=
  decide (lo ≤ f.pos) && decide (f.pos + f.width ≤ hi)

/-- The two fields do not overlap (R10 (b), R135 (b)): one of them has no bit (width 0, D29), or one ends before the
other begins. -/
def Field.disjoint (f g : Field) : Bool :=
  decide (f.width = 0) || decide (g.width = 0)
    || decide (f.pos + f.width ≤ g.pos) || decide (g.pos + g.width ≤ f.pos)

/-- No two fields of the list overlap (R10 (b)). -/
def pairwiseDisjoint : List Field → Bool
  | [] => true
  | f :: fs => fs.all (f.disjoint ·) && pairwiseDisjoint fs

/-- The fields of one packet kind lie inside their parent and do not overlap (R10 (a), (b)). -/
def fieldsOk (lo hi : Nat) (fs : List Field) : Bool :=
  fs.all (Field.inside lo hi) && pairwiseDisjoint fs

/-! Fields the source fixes (R8, R91 to R93). -/

abbrev Field.eventp : Field := ⟨0, 1⟩
abbrev Field.chipid : Field := ⟨2, 4⟩
abbrev Field.payload : Field := ⟨6, 58⟩
abbrev Field.cmdrwb : Field := ⟨6, 1⟩
abbrev Field.cmd : Field := ⟨7, 4⟩
abbrev Field.ci : Field := ⟨11, 53⟩
abbrev Field.evTmsb : Field := ⟨9, 4⟩
abbrev Field.evValid (k : Nat) : Field := ⟨6 + k, 1⟩
abbrev Field.evTbin (k : Nat) : Field := ⟨13 + 17 * k, 4⟩
abbrev Field.evTlsb (k : Nat) : Field := ⟨17 + 17 * k, 4⟩
abbrev Field.evNadr (k : Nat) : Field := ⟨21 + 17 * k, 9⟩

/-- The eight named fields of the control register, in the order of their field index (R28). -/
inductive ControlField where
  | anaclkEn | anaclkhiEn | pramEn | errOutEn | earlydebug | einRst | einbRst | eoutRst
  deriving DecidableEq, Repr

/-- All fields of the control register in index order (R28). -/
def ControlField.all : List ControlField :=
  [.anaclkEn, .anaclkhiEn, .pramEn, .errOutEn, .earlydebug, .einRst, .einbRst, .eoutRst]

/-- The field index k: the bit of the write mask that selects the field (R28). -/
def ControlField.index : ControlField → Nat
  | .anaclkEn => 0 | .anaclkhiEn => 1 | .pramEn => 2 | .errOutEn => 3
  | .earlydebug => 4 | .einRst => 5 | .einbRst => 6 | .eoutRst => 7

/-- The eight banks of the parameter RAM, `PR_BANKS` (R8, R74). -/
inductive Bank where
  | synapseLeft | synapseRight | neuronLeft | neuronRight | voutLeft | voutRight | bias | outputAmp
  deriving DecidableEq, Repr

/-- The banks in their fixed order (R8, R74). -/
def Bank.all : List Bank :=
  [.synapseLeft, .synapseRight, .neuronLeft, .neuronRight, .voutLeft, .voutRight, .bias, .outputAmp]

/-- The number k of a bank in the order (R75). -/
def Bank.index : Bank → Nat
  | .synapseLeft => 0 | .synapseRight => 1 | .neuronLeft => 2 | .neuronRight => 3
  | .voutLeft => 4 | .voutRight => 5 | .bias => 6 | .outputAmp => 7

/-- The size constant the source names for a bank (R8): `PR_SIZE_SYNAPSE`, `PR_SIZE_NEURON`, `PR_SIZE_VOUT`,
`PR_SIZE_BIAS`, `PR_SIZE_OUTAMP`. That each is the size of one bank, not of a pair, is D7: `Layout.prBankSize`. -/
def Bank.sizeConstant : Bank → Nat
  | .synapseLeft => 2048 | .synapseRight => 2048 | .neuronLeft => 1536 | .neuronRight => 1536
  | .voutLeft => 128 | .voutRight => 128 | .bias => 16 | .outputAmp => 16

/-- The numbers the source does not give (R9). Positions are absolute bits of the word, but for the control
register's (bits of `CR`), the fifo nibble's (bits of the nibble) and the `Off` fields (bits of the data field). -/
structure Layout where
  cmdSync : Nat
  cmdLoopback : Nat
  cmdParamram : Nat
  cmdControl : Nat
  cmdSynram : Nat
  cmdAreadout : Nat
  cmdEvloopback : Nat
  cmdDummycmd : Nat
  cmdErrflag : Nat
  crAnaclkEnPos : Nat
  crAnaclkhiEnPos : Nat
  crPramEnPos : Nat
  crErrOutEnPos : Nat
  crEarlydebugPos : Nat
  crEinRstPos : Nat
  crEinbRstPos : Nat
  crEoutRstPos : Nat
  crSelPos : Nat
  crValPos : Nat
  crFmask : Field
  stDataPos : Nat
  revW : Nat
  fposW : Nat
  fsFull : Nat
  fsAfull : Nat
  fsHfull : Nat
  fsErr : Nat
  prSub : Field
  prAdr : Field
  prP1Pos : Nat
  prP2Pos : Nat
  prP3Pos : Nat
  prPW : Nat
  prPeriod : Field
  lutIdx : Field
  lutN : Nat
  lutTimePos : Nat
  lutBoostPos : Nat
  lutRepeatPos : Nat
  lutStepPos : Nat
  lutFW : Nat
  prCount : Field
  prBankSize : List Nat
  evValidPolarity : Nat
  absTimeW : Nat
  dlAdr : Field
  dlValPos : Nat
  scSub : Field
  scRow : Field
  scRows : Nat
  scCol : Field
  scCols : Nat
  scData : Field
  scDoneOff : Nat
  scCmerrOff : Nat
  deriving DecidableEq, Repr

/-- The reference layout: the column 'reference' of R9. Every value is the spec's decision, none is the chip's
(92_eei_decisions D2 to D15). -/
def Layout.reference : Layout where
  cmdSync := 0x0
  cmdLoopback := 0x2
  cmdParamram := 0x4
  cmdControl := 0x6
  cmdSynram := 0x8
  cmdAreadout := 0xA
  cmdEvloopback := 0xC
  cmdDummycmd := 0xE
  cmdErrflag := 0x1
  crAnaclkEnPos := 0
  crAnaclkhiEnPos := 1
  crPramEnPos := 2
  crErrOutEnPos := 3
  crEarlydebugPos := 4
  crEinRstPos := 8
  crEinbRstPos := 16
  crEoutRstPos := 24
  crSelPos := 11
  crValPos := 13
  crFmask := ⟨45, 8⟩
  stDataPos := 13
  revW := 4
  fposW := 8
  fsFull := 0
  fsAfull := 1
  fsHfull := 2
  fsErr := 3
  prSub := ⟨11, 2⟩
  prAdr := ⟨13, 13⟩
  prP1Pos := 26
  prP2Pos := 36
  prP3Pos := 46
  prPW := 10
  prPeriod := ⟨13, 16⟩
  lutIdx := ⟨13, 4⟩
  lutN := 16
  lutTimePos := 17
  lutBoostPos := 21
  lutRepeatPos := 25
  lutStepPos := 29
  lutFW := 4
  prCount := ⟨13, 13⟩
  prBankSize := Bank.all.map Bank.sizeConstant
  evValidPolarity := 1
  absTimeW := 8
  dlAdr := ⟨6, 6⟩
  dlValPos := 12
  scSub := ⟨11, 3⟩
  scRow := ⟨14, 8⟩
  scRows := 256
  scCol := ⟨22, 6⟩
  scCols := 64
  scData := ⟨28, 24⟩
  scDoneOff := 0
  scCmerrOff := 1

namespace Layout

/-! Field descriptors made from the layout's numbers. Widths the source fixes stand here: selector 2 (R8 SEL_W),
control value 32 (CR_W), reset fields 8 (CR_RST_W), nibble 4 (FSTAT_W), delay value 3 (DL_VAL_W). -/

abbrev crSel (L : Layout) : Field := ⟨L.crSelPos, 2⟩
abbrev crVal (L : Layout) : Field := ⟨L.crValPos, 32⟩
/-- The view data of a status response: everything from `ST_DATA_POS` up (R94). -/
abbrev stData (L : Layout) : Field := ⟨L.stDataPos, 64 - L.stDataPos⟩
/-- View 0 (R35): the control register, then the revision. -/
abbrev stCtrl (L : Layout) : Field := ⟨L.stDataPos, 32⟩
abbrev stRev (L : Layout) : Field := ⟨L.stDataPos + 32, L.revW⟩
/-- Views 1 to 3 (R36, R37): status nibble, position, high nibble, PLL lock. -/
abbrev stFstat (L : Layout) : Field := ⟨L.stDataPos, 4⟩
abbrev stFpos (L : Layout) : Field := ⟨L.stDataPos + 4, L.fposW⟩
abbrev stHinib (L : Layout) : Field := ⟨L.stDataPos + 4 + L.fposW, 4⟩
abbrev stPll (L : Layout) : Field := ⟨L.stDataPos + 4 + L.fposW + 4, 1⟩
abbrev prP1 (L : Layout) : Field := ⟨L.prP1Pos, L.prPW⟩
abbrev prP2 (L : Layout) : Field := ⟨L.prP2Pos, L.prPW⟩
abbrev prP3 (L : Layout) : Field := ⟨L.prP3Pos, L.prPW⟩
abbrev lutTime (L : Layout) : Field := ⟨L.lutTimePos, L.lutFW⟩
abbrev lutBoost (L : Layout) : Field := ⟨L.lutBoostPos, L.lutFW⟩
abbrev lutRepeat (L : Layout) : Field := ⟨L.lutRepeatPos, L.lutFW⟩
abbrev lutStep (L : Layout) : Field := ⟨L.lutStepPos, L.lutFW⟩
abbrev dlVal (L : Layout) : Field := ⟨L.dlValPos, 3⟩
/-- `SC_DONE_POS` and `SC_CMERR_POS` of R250. -/
abbrev scDone (L : Layout) : Field := ⟨L.scData.pos + L.scDoneOff, 1⟩
abbrev scCmerr (L : Layout) : Field := ⟨L.scData.pos + L.scCmerrOff, 1⟩

/-- Position and width of a control-register field inside `CR` (R28). -/
def crField (L : Layout) : ControlField → Field
  | .anaclkEn => ⟨L.crAnaclkEnPos, 1⟩
  | .anaclkhiEn => ⟨L.crAnaclkhiEnPos, 1⟩
  | .pramEn => ⟨L.crPramEnPos, 1⟩
  | .errOutEn => ⟨L.crErrOutEnPos, 1⟩
  | .earlydebug => ⟨L.crEarlydebugPos, 1⟩
  | .einRst => ⟨L.crEinRstPos, 8⟩
  | .einbRst => ⟨L.crEinbRstPos, 8⟩
  | .eoutRst => ⟨L.crEoutRstPos, 8⟩

/-- `PR_TOTAL`: the sum of the bank sizes (R10 (f), R75). -/
def prTotal (L : Layout) : Nat := L.prBankSize.sum

/-- The eight command codes in the order the source lists the names (R92). -/
def commandCodes (L : Layout) : List Nat :=
  [L.cmdSync, L.cmdLoopback, L.cmdParamram, L.cmdControl, L.cmdSynram, L.cmdAreadout, L.cmdEvloopback, L.cmdDummycmd]

/-- No value twice. -/
def allDistinct : List Nat → Bool
  | [] => true
  | x :: xs => xs.all (fun y => decide (x ≠ y)) && allDistinct xs

/-- R10 (c): the command codes are distinct 4-bit values with bit 0 clear, and the error flag is bit 0. -/
def wfCodes (L : Layout) : Bool :=
  L.commandCodes.all (fun c => decide (c < 16) && decide (c % 2 = 0)) && allDistinct L.commandCodes
    && decide (L.cmdErrflag = 1)

/-- R10 (a), (b), (d), (e) for the control register, its write, its views and the fifo nibble. -/
def wfControl (L : Layout) : Bool :=
  fieldsOk 0 32 (ControlField.all.map L.crField)
    && fieldsOk 11 64 [L.crSel, L.crVal, L.crFmask]
    && decide (L.crFmask.width = 8)
    && fieldsOk 11 64 [L.crSel, L.stData]
    && fieldsOk 11 64 [L.crSel, L.stCtrl, L.stRev]
    && fieldsOk 11 64 [L.crSel, L.stFstat, L.stFpos, L.stHinib, L.stPll]
    && fieldsOk 0 4 [⟨L.fsFull, 1⟩, ⟨L.fsAfull, 1⟩, ⟨L.fsHfull, 1⟩, ⟨L.fsErr, 1⟩]

/-- R10 (a), (b), (f), (g), (h) for the parameter-RAM commands; the banks are eight (R74). -/
def wfParam (L : Layout) : Bool :=
  fieldsOk 11 64 [L.prSub, L.prAdr, L.prP1, L.prP2, L.prP3]
    && fieldsOk 11 64 [L.prSub, L.prPeriod]
    && fieldsOk 11 64 [L.prSub, L.lutIdx, L.lutTime, L.lutBoost, L.lutRepeat, L.lutStep]
    && fieldsOk 11 64 [L.prSub, L.prCount]
    && decide (L.prSub.width = 2)
    && decide (L.prBankSize.length = 8)
    && decide (L.prTotal ≤ 2 ^ L.prAdr.width)
    && decide (L.prTotal < 2 ^ L.prCount.width)
    && decide (L.lutN ≤ 2 ^ L.lutIdx.width)

/-- R10 (a), (b), (g), (h) for the synapse-control commands; `done` and `cmerr` are two bits of the data field. -/
def wfSynapse (L : Layout) : Bool :=
  fieldsOk 11 64 [L.scSub, L.scRow, L.scCol, L.scData]
    && decide (L.scSub.width = 3)
    && decide (L.scRows ≤ 2 ^ L.scRow.width)
    && decide (L.scCols ≤ 2 ^ L.scCol.width)
    && decide (L.scDoneOff < L.scData.width) && decide (L.scCmerrOff < L.scData.width)
    && decide (L.scDoneOff ≠ L.scCmerrOff)

/-- R10 (a), (b), (g) for the delay-line word. -/
def wfDelay (L : Layout) : Bool :=
  fieldsOk 0 64 [Field.chipid, L.dlAdr, L.dlVal] && decide (36 ≤ 2 ^ L.dlAdr.width)

/-- R10 (i): the codec carries 8 bits of time, the validity polarity is a bit. -/
def wfEvent (L : Layout) : Bool :=
  decide (L.absTimeW = 8) && decide (L.evValidPolarity ≤ 1)

/-- A layout is well formed (R10): the rules are stated only over well-formed layouts. -/
def wf (L : Layout) : Bool :=
  L.wfCodes && L.wfControl && L.wfParam && L.wfSynapse && L.wfDelay && L.wfEvent

end Layout

/-! Free values and OPEN parameters. No constant below has a body that a proof can see. -/

/-- The `n`-th value the spec does not determine, of `w` bits: `draw(w)` of R13, R16. -/
opaque Config.draw (w n : Nat) : BitVec w

/-- What an output port of R53 shows of an element: a line of `dl_out`, a parameter of an entry at `pram_port`, and the
registers and lookup fields beside it. -/
inductive Port where
  | delay | p1 | p2 | p3 | period | pcount | lutTime | lutBoost | lutRepeat | lutStep
  deriving DecidableEq, Repr

/-- What a port of chip `chip` shows, `w` bits wide, of an element that no word has written since reset, at look number
`look` (R53, R232, R332, D23): free, and free again at every look. -/
opaque Config.portValue (w : Nat) (port : Port) (chip : ChipId) (element look : Nat) : BitVec w

/-- `REVISION` of each device instance (R46): OPEN, no reference value. -/
opaque Config.revision : ChipId → Nat

/-- `DL_NAME` (R78, R231, D14): which signal each delay line calibrates. OPEN, read by no rule. -/
opaque Config.delayLineName : Fin 36 → String

end Sys2Proof
end

