-- ==== Sys2Proof/Syntax.lean ====
section
/-! DEFINITION. The syntax: `Instr`, one constructor per row of spec/opcode_table.json; the request interface of the
encode face (30_encoding R120, R122); events, reads in flight, errors and results as values.

Operands whose width the source fixes (class N) are bit vectors; operands whose width is a layout number (class P)
are natural numbers, and `Instr.wf` says that they fit their fields. -/

namespace Sys2Proof

/-! Values of the protocol. -/

/-- One of the three sub-event positions of an event word, as the bits stand in the word (R93, R211). -/
structure Slot where
  valid : BitVec 1
  tbin : BitVec 4
  tlsb : BitVec 4
  nadr : BitVec 9
  deriving DecidableEq, Repr

/-- A spike event as the decoder produces it (R210). -/
structure Event where
  absoluteTime : BitVec 8
  neuronAddress : BitVec 9
  timeBin : BitVec 4
  valid : Bool
  deriving DecidableEq, Repr

/-- A spike event as a caller gives it: address and bin may be too wide and are then truncated (R215). -/
structure EventRequest where
  absoluteTime : BitVec 8
  neuronAddress : Nat
  timeBin : Nat
  valid : Bool
  deriving DecidableEq, Repr

/-- An entry of the parameter RAM: three parameters of `PR_P_W` bits (R38, R181). -/
structure Triple where
  p1 : Nat
  p2 : Nat
  p3 : Nat
  deriving DecidableEq, Repr

/-- An entry of the lookup table: four fields of `LUT_F_W` bits (R40). -/
structure LutEntry where
  time : Nat
  boost : Nat
  rep : Nat
  step : Nat
  deriving DecidableEq, Repr

/-- The five commands of which the source gives a name only (R275). -/
inductive MiscCmd where
  | sync | loopback | areadout | evloopback | dummycmd
  deriving DecidableEq, Repr

/-- The eight synapse-control sub-commands (R245). -/
inductive ScSub where
  | ctrl | time | plut | syn | close | corRead | pcor | pcorc
  deriving DecidableEq, Repr

/-- The code of a sub-command (R8, R245). -/
def ScSub.code : ScSub → Nat
  | .ctrl => 0 | .time => 1 | .plut => 2 | .syn => 3 | .close => 4 | .corRead => 5 | .pcor => 6 | .pcorc => 7

/-- The kind of a read in flight and what its decoder needs (R48). -/
inductive ReadKind where
  | status (sel : BitVec 2)
  | param (address : Nat)
  | synram (sub : ScSub)
  | misc (cmd : MiscCmd)
  deriving DecidableEq, Repr

/-! The instructions: words of the protocol. -/

/-- One constructor per row of spec/opcode_table.json. `chip` is the addressed or answering chip id; fields the
format reserves are not operands (R112, R113). -/
inductive Instr where
  | empty
  | dlSet (chip : ChipId) (adr : Nat) (val : BitVec 3)
  | event (chip : ChipId) (tmsb : BitVec 4) (s0 s1 s2 : Slot)
  | errorResp (chip : ChipId) (rwb : BitVec 1) (cmd : BitVec 4) (ci : BitVec 53)
  | sync (chip : ChipId) (rwb : BitVec 1) (ci : BitVec 53)
  | loopback (chip : ChipId) (rwb : BitVec 1) (ci : BitVec 53)
  | prWrite (chip : ChipId) (adr p1 p2 p3 : Nat)
  | prRead (chip : ChipId) (adr : Nat)
  | prReadResp (chip : ChipId) (adr p1 p2 p3 : Nat)
  | prPeriod (chip : ChipId) (period : Nat)
  | prLut (chip : ChipId) (idx time boost rep step : Nat)
  | prCount (chip : ChipId) (count : Nat)
  | ctrlWrite (chip : ChipId) (val : BitVec 32) (fmask : BitVec 8)
  | statusRead0 (chip : ChipId)
  | statusRead1 (chip : ChipId)
  | statusRead2 (chip : ChipId)
  | statusRead3 (chip : ChipId)
  | statusResp0 (chip : ChipId) (ctrl : BitVec 32) (rev : Nat)
  | statusResp1 (chip : ChipId) (fstat : BitVec 4) (fpos : Nat)
  | statusResp2 (chip : ChipId) (fstat : BitVec 4) (fpos : Nat)
  | statusResp3 (chip : ChipId) (fstat : BitVec 4) (fpos : Nat) (hinib : BitVec 4) (pll : BitVec 1)
  | scCtrlR (chip : ChipId)
  | scTimeW (chip : ChipId) (data : Nat)
  | scTimeR (chip : ChipId)
  | scPlutW (chip : ChipId) (row col data : Nat)
  | scPlutR (chip : ChipId) (row col : Nat)
  | scSynW (chip : ChipId) (row col data : Nat)
  | scSynR (chip : ChipId) (row col : Nat)
  | scClose (chip : ChipId)
  | scCorRead (chip : ChipId) (col : Nat)
  | scPcor (chip : ChipId)
  | scPcorc (chip : ChipId)
  | scResp (chip : ChipId) (sub : BitVec 3) (row col data : Nat)
  | areadout (chip : ChipId) (rwb : BitVec 1) (ci : BitVec 53)
  | evloopback (chip : ChipId) (rwb : BitVec 1) (ci : BitVec 53)
  | dummycmd (chip : ChipId) (rwb : BitVec 1) (ci : BitVec 53)
  deriving DecidableEq, Repr

/-! The request interface (R120, R122). Operands are natural numbers of any size (R14). -/

/-- The finite map of a control write: the fields named, with their values (R156). -/
structure ControlMap where
  anaclkEn : Option Nat := none
  anaclkhiEn : Option Nat := none
  pramEn : Option Nat := none
  errOutEn : Option Nat := none
  earlydebug : Option Nat := none
  einRst : Option Nat := none
  einbRst : Option Nat := none
  eoutRst : Option Nat := none
  deriving DecidableEq, Repr

/-- The value a control map gives a field, if it names it (R156). -/
def ControlMap.get (m : ControlMap) : ControlField → Option Nat
  | .anaclkEn => m.anaclkEn | .anaclkhiEn => m.anaclkhiEn | .pramEn => m.pramEn | .errOutEn => m.errOutEn
  | .earlydebug => m.earlydebug | .einRst => m.einRst | .einbRst => m.einbRst | .eoutRst => m.eoutRst

/-- The synapse-control operations the encode face offers: the sub-commands with the directions that exist
(R105, R109, R246). -/
inductive ScOp where
  | ctrlR | timeW | timeR | plutW | plutR | synW | synR | close | corRead | pcor | pcorc
  deriving DecidableEq, Repr

/-- The sub-command of an operation (R105). -/
def ScOp.sub : ScOp → ScSub
  | .ctrlR => .ctrl | .timeW => .time | .timeR => .time | .plutW => .plut | .plutR => .plut
  | .synW => .syn | .synR => .syn | .close => .close | .corRead => .corRead | .pcor => .pcor | .pcorc => .pcorc

/-- Whether an operation is a read, `rwb` = 1 (R105). -/
def ScOp.isRead : ScOp → Bool
  | .ctrlR => true | .timeR => true | .plutR => true | .synR => true | .corRead => true
  | .timeW => false | .plutW => false | .synW => false | .close => false | .pcor => false | .pcorc => false

/-- A request of the caller (R120); each builds at most one word. -/
inductive Request where
  | extract (w : Word) (pos width : Nat)
  | insert (w : Word) (pos width value : Nat)
  | classify (w : Word)
  | classifyCommand (payload : BitVec 58)
  | build (chipId : Nat) (isEvent : Bool) (payload : Nat)
  | buildCommand (chipId rwb cmd ci : Nat)
  | buildControlWrite (chipId : Nat) (fields : ControlMap)
  | buildStatusRead (chipId selector : Nat)
  | decodeStatus (selector : Nat) (w : Word)
  | writeParam (chipId address p1 p2 p3 : Nat)
  | readParam (chipId address : Nat)
  | writePeriod (chipId cycles : Nat)
  | writeLookupEntry (chipId index time boost rep step : Nat)
  | writeParamCount (chipId n : Nat)
  | packEvents (chipId : Nat) (events : List EventRequest)
  | unpackEvents (w : Word)
  | setDelay (lineAddress value chipId : Nat)
  | synapse (chipId : Nat) (op : ScOp) (row col data : Nat)
  | misc (chipId : Nat) (cmd : MiscCmd) (rwb : Bool) (ci : Nat)
  deriving DecidableEq, Repr

/-- One delay-line setting of a `DL.SEQ` (R238). -/
structure DelaySetting where
  chipId : Nat
  lineAddress : Nat
  value : Nat
  deriving DecidableEq, Repr

/-- What the environment does (R17, R307), and, outside the reliable transport of R80, what R190, R197, R281 and
R282 speak of: words of a foreign encoder or device, and a bit flipped in transit. -/
inductive EnvAction where
  /-- `ENV addr_mode = x` (R239). -/
  | addrMode (x : Bool)
  /-- ENV sets `CMERR` of a chip (R26). -/
  | setCmerr (chip : ChipId)
  /-- `ENV reset` (R330). -/
  | reset
  /-- Restart of the encode face alone (R337). -/
  | restartEncodeFace
  /-- A word of a foreign encoder enters the FIFO toward the device (R145, R190). -/
  | foreignRequest (w : Word)
  /-- A word of a device outside the model enters the FIFO toward the requester (R281, R282). -/
  | foreignResponse (w : Word)
  /-- A bit of the oldest word toward the device flips in transit (R197). -/
  | flipRequest (bit : Fin 64)
  /-- A bit of the oldest word toward the requester flips in transit (R197). -/
  | flipResponse (bit : Fin 64)
  deriving DecidableEq, Repr

/-- What a program text says, in its order (R121): requests, the pseudo-operations of R122, and actions of ENV. -/
inductive Action where
  | request (r : Request)
  /-- `PR.IDLE` (R198). -/
  | paramIdle (chipId : Nat)
  /-- `PR.VERIFY` (R196): addresses with the triples expected. -/
  | verify (chipId : Nat) (entries : List (Nat × Triple))
  /-- The continuation of a verify batch: the next read, or its end. -/
  | verifyNext (chip : ReqId)
  /-- `PR.WRITEALL` then `PR.VERIFY` (R88, R122). -/
  | writeAll (chipId : Nat) (entries : List (Nat × Triple))
  /-- `EV.COMPRESS` (R219). -/
  | compress (chipId : Nat) (events : List EventRequest)
  /-- `DL.SEQ` (R238). -/
  | delaySequence (settings : List DelaySetting)
  /-- `SC.POLL` (R262), with any number as the chip id (R14, R123). -/
  | poll (chipId : Nat)
  /-- The test at the end of one round of `SC.POLL`, on the answer to the round's read, the chip's read number `read`. -/
  | pollTest (chip : ReqId) (read : Nat)
  /-- The rest of a blocking read: the caller waits for the answer to the chip's read number `read` (R150, R305). -/
  | await (chip : ReqId) (read : Nat)
  | env (a : EnvAction)
  deriving DecidableEq, Repr

/-- Who takes a step (R17). REQ takes the next action of one of the callers' scripts, the callers being independent
sequential contexts (R83, R324); ENV may act at any time (R307). `dev` takes the oldest word toward the devices;
`devOf k` is the instance `k` taking the oldest word addressed to it, ahead of other chips' words (R17, R83;
notes/assumptions/28). -/
inductive Agent where
  | req (caller : Nat)
  | dev
  | devOf (chip : ChipId)
  | rsp
  | cor (chip : ChipId)
  | env (a : EnvAction)
  deriving DecidableEq, Repr

/-! Errors and results, as values returned to the caller. -/

/-- The error kinds with what each records (R290). `fieldOverflow` and `verificationFailure` are records and end
no request (R291). -/
inductive ErrorKind where
  | fieldOverflow (pos width given stored : Nat)
  | outOfRange (pos width : Nat)
  | invalidChipId (chipId : Nat)
  | invalidAddress (lineAddress : Nat)
  | valueOverflow (value : Nat)
  | verificationFailure (address : Nat) (expected decoded : Triple)
  | rowConflict (openRow asked : Nat)
  | commandDecodeError
  | unknownSelector (selector : Nat)
  | addressOutOfRange (address : Nat)
  | deviceErrorFlag (cmd : Nat) (ci : BitVec 53)
  deriving DecidableEq, Repr

/-- The code of an error kind (R290). -/
def ErrorKind.code : ErrorKind → Nat
  | .fieldOverflow _ _ _ _ => 1
  | .outOfRange _ _ => 2
  | .invalidChipId _ => 3
  | .invalidAddress _ => 4
  | .valueOverflow _ => 5
  | .verificationFailure _ _ _ => 6
  | .rowConflict _ _ => 7
  | .commandDecodeError => 8
  | .unknownSelector _ => 9
  | .addressOutOfRange _ => 10
  | .deviceErrorFlag _ _ => 11

/-- The four booleans of a fifo-status nibble (R24, R104). -/
structure FifoStatus where
  full : Bool
  almostFull : Bool
  halfFull : Bool
  error : Bool
  deriving DecidableEq, Repr

/-- The eight fields of a decoded control register, by name (R166). -/
structure ControlView where
  anaclkEn : Bool
  anaclkhiEn : Bool
  pramEn : Bool
  errOutEn : Bool
  earlydebug : Bool
  einRst : BitVec 8
  einbRst : BitVec 8
  eoutRst : BitVec 8
  deriving DecidableEq, Repr

/-- A decoded status view (R165, R166). -/
inductive StatusView where
  | control (ctrl : BitVec 32) (rev : Nat) (fields : ControlView)
  | clkFifo (status : FifoStatus) (position : Nat)
  | clkbFifo (status : FifoStatus) (position : Nat)
  | clkhiFifo (status : FifoStatus) (position : Nat) (highNibble : BitVec 4) (pllLocked : Bool)
  deriving DecidableEq, Repr

/-- A read of an address that did not return what was expected (R50, R195). -/
structure Mismatch where
  address : Nat
  expected : Triple
  decoded : Triple
  deriving DecidableEq, Repr

/-- What a request that ends `ok` returns (R16 (a), R120). -/
inductive Value where
  /-- The word a request sent that expects no response. -/
  | sent (w : Word)
  | number (n : Nat)
  | word (w : Word)
  | packet (chipId : BitVec 4) (isEvent : Bool) (payload : BitVec 58)
  | command (rwb : BitVec 1) (cmd : BitVec 4) (err : Bool) (ci : BitVec 53)
  | status (v : StatusView)
  | triple (t : Triple)
  | ctrl (done cmerr : Bool)
  | data (n : Nat)
  | raw (ci : BitVec 53)
  | events (es : List Event)
  | verified (failures : List Mismatch)
  deriving DecidableEq, Repr

/-- The end of a request (R16 (a), (b)). -/
inductive Result where
  | ok (v : Value)
  | error (e : ErrorKind)
  deriving DecidableEq, Repr

/-- A truncation that an `insert` logged (R292): field, value given, value stored. -/
structure Overflow where
  field : Field
  given : Nat
  stored : Nat
  deriving DecidableEq, Repr

end Sys2Proof
end

