-- ==== Sys2Proof/WellFormed.lean ====
section
/-! DEFINITION. Well-formed instructions: every operand fits the field the layout gives it (R100, R117), and an
error response has the error flag set (R282). Whether a number that fits its field names an element is the device's
question, not the syntax's (R117, R190). -/

namespace Sys2Proof

/-- `n` fits the field (R14). -/
def Field.fits (f : Field) (n : Nat) : Bool := decide (n < 2 ^ f.width)

/-- Every operand of the instruction fits its field in layout `L`. -/
def Instr.wf (L : Layout) : Instr → Bool
  | .empty => true
  | .dlSet _ adr _ => L.dlAdr.fits adr
  | .event _ _ _ _ _ => true
  | .errorResp _ _ cmd _ => decide (cmd.toNat % 2 = 1)
  | .sync _ _ _ => true
  | .loopback _ _ _ => true
  | .prWrite _ adr p1 p2 p3 => L.prAdr.fits adr && L.prP1.fits p1 && L.prP2.fits p2 && L.prP3.fits p3
  | .prRead _ adr => L.prAdr.fits adr
  | .prReadResp _ adr p1 p2 p3 => L.prAdr.fits adr && L.prP1.fits p1 && L.prP2.fits p2 && L.prP3.fits p3
  | .prPeriod _ period => L.prPeriod.fits period
  | .prLut _ idx time boost rep step =>
      L.lutIdx.fits idx && L.lutTime.fits time && L.lutBoost.fits boost && L.lutRepeat.fits rep && L.lutStep.fits step
  | .prCount _ count => L.prCount.fits count
  | .ctrlWrite _ _ _ => true
  | .statusRead0 _ => true
  | .statusRead1 _ => true
  | .statusRead2 _ => true
  | .statusRead3 _ => true
  | .statusResp0 _ _ rev => L.stRev.fits rev
  | .statusResp1 _ _ fpos => L.stFpos.fits fpos
  | .statusResp2 _ _ fpos => L.stFpos.fits fpos
  | .statusResp3 _ _ fpos _ _ => L.stFpos.fits fpos
  | .scCtrlR _ => true
  | .scTimeW _ data => L.scData.fits data
  | .scTimeR _ => true
  | .scPlutW _ row col data => L.scRow.fits row && L.scCol.fits col && L.scData.fits data
  | .scPlutR _ row col => L.scRow.fits row && L.scCol.fits col
  | .scSynW _ row col data => L.scRow.fits row && L.scCol.fits col && L.scData.fits data
  | .scSynR _ row col => L.scRow.fits row && L.scCol.fits col
  | .scClose _ => true
  | .scCorRead _ col => L.scCol.fits col
  | .scPcor _ => true
  | .scPcorc _ => true
  | .scResp _ _ row col data => L.scRow.fits row && L.scCol.fits col && L.scData.fits data
  | .areadout _ _ _ => true
  | .evloopback _ _ _ => true
  | .dummycmd _ _ _ => true

end Sys2Proof
end

