-- ==== Sys2Proof/Decode.lean ====
section
/-! DEFINITION. The bit-field codec (40_bitfield_codec), the packet framer's build and classify (41_packet_framer),
the decoders of the two faces (R106, R107), and the encoder, both written from the field tables of 30_encoding. -/

namespace Sys2Proof

/-! The bit-field codec. -/

/-- The slice `w[pos+width-1 : pos]` (R12, R130) of a word of any length: the value of `extract` where it is in range. -/
def bits {n : Nat} (w : BitVec n) (pos width : Nat) : Nat :=
  (w.toNat >>> pos) % 2 ^ width

/-- `w` with that field replaced, the value reduced to the field's width (R131): the word of `insert` where it is
in range. -/
def putBits {n : Nat} (w : BitVec n) (pos width value : Nat) : BitVec n :=
  (w &&& ~~~BitVec.ofNat n ((2 ^ width - 1) <<< pos)) ||| BitVec.ofNat n ((value % 2 ^ width) <<< pos)

/-- `field(w, F)` of R12 and R137. -/
def get {n : Nat} (w : BitVec n) (f : Field) : Nat := bits w f.pos f.width

/-- `setfield(w, F, v)` of R137. -/
def put {n : Nat} (w : BitVec n) (f : Field) (value : Nat) : BitVec n := putBits w f.pos f.width value

/-- The log entry of an `insert` that truncates (R131, R133, R292); none where the value fits. -/
def overflowOf (f : Field) (value : Nat) : List Overflow :=
  if 2 ^ f.width ≤ value then [⟨f, value, value % 2 ^ f.width⟩] else []

/-- `EXTRACT` (R130): the bound is checked in unbounded arithmetic (R132). -/
def codecExtract (w : Word) (pos width : Nat) : Except ErrorKind Nat :=
  if 64 < pos + width then .error (.outOfRange pos width) else .ok (bits w pos width)

/-- `INSERT` (R131): the new word and the log entries. -/
def codecInsert (w : Word) (pos width value : Nat) : Except ErrorKind (Word × List Overflow) :=
  if 64 < pos + width then .error (.outOfRange pos width)
  else .ok (putBits w pos width value, overflowOf ⟨pos, width⟩ value)

/-- A word is built from the all-zero word by one `setfield` per field of its format (R137). -/
def assemble (fields : List (Field × Nat)) : Word :=
  fields.foldl (fun w fv => put w fv.1 fv.2) 0

/-- The log entries of building a word, in the order of the inserts (R292). -/
def overflows (fields : List (Field × Nat)) : List Overflow :=
  fields.flatMap fun fv => overflowOf fv.1 fv.2

/-! The packet framer. -/

/-- The fields `build` inserts (R141). -/
def packetFields (chipId : Nat) (isEvent : Bool) (payload : Nat) : List (Field × Nat) :=
  [(Field.eventp, isEvent.toNat), (Field.chipid, chipId), (Field.payload, payload)]

/-- `BUILD` (R141): the chip id is validated, the payload truncated. -/
def build (chipId : Nat) (isEvent : Bool) (payload : Nat) : Except ErrorKind (Word × List Overflow) :=
  if 15 < chipId then .error (.invalidChipId chipId)
  else .ok (assemble (packetFields chipId isEvent payload), overflows (packetFields chipId isEvent payload))

/-- The framer's view of a word (R140). -/
structure Packet where
  chipId : BitVec 4
  isEvent : Bool
  payload : BitVec 58
  deriving DecidableEq, Repr

/-- `CLASSIFY` (R143). -/
def classify (w : Word) : Packet where
  chipId := BitVec.ofNat 4 (get w Field.chipid)
  isEvent := get w Field.eventp == 1
  payload := BitVec.ofNat 58 (get w Field.payload)

/-- A command payload taken apart (R146): the name `cmd` is the code with the error flag cleared. -/
structure Command where
  rwb : BitVec 1
  cmd : BitVec 4
  err : Bool
  ci : BitVec 53
  deriving DecidableEq, Repr

/-- `classifyCommand` (R146), in payload-relative positions: `rwb` 0, `c` 4:1, `ci` 57:5. -/
def classifyCommand (payload : BitVec 58) : Command where
  rwb := BitVec.ofNat 1 (bits payload 0 1)
  cmd := BitVec.ofNat 4 (bits payload 1 4) &&& 0xE#4
  err := bits payload 1 1 == 1
  ci := BitVec.ofNat 53 (bits payload 5 53)

/-- The header of a command packet (R92): `build(chipId, false, 0)`, then `cmdrwb` and `cmd`. -/
def commandFields (chipId rwb cmd : Nat) : List (Field × Nat) :=
  [(Field.eventp, 0), (Field.chipid, chipId), (Field.cmdrwb, rwb), (Field.cmd, cmd)]

/-! Field lists of the words (30_encoding), one per format; operands are natural numbers of any size, reduced by
the inserts. -/

/-- A command with its opaque data field (R99, R146). -/
def rawCommandFields (chipId rwb cmd ci : Nat) : List (Field × Nat) :=
  commandFields chipId rwb cmd ++ [(Field.ci, ci)]

/-- `CTRL.WRITE` (R94, R157). -/
def ctrlWriteFields (L : Layout) (chipId val fmask : Nat) : List (Field × Nat) :=
  commandFields chipId 0 L.cmdControl ++ [(L.crSel, 0), (L.crVal, val), (L.crFmask, fmask)]

/-- `STATUS.READ` (R94, R160). -/
def statusReadFields (L : Layout) (chipId sel : Nat) : List (Field × Nat) :=
  commandFields chipId 1 L.cmdControl ++ [(L.crSel, sel)]

/-- Response with view 0 (R95, R161). -/
def statusControlFields (L : Layout) (chipId ctrl rev : Nat) : List (Field × Nat) :=
  commandFields chipId 1 L.cmdControl ++ [(L.crSel, 0), (L.stCtrl, ctrl), (L.stRev, rev)]

/-- Response with view 1 or 2 (R95, R162, R163). -/
def statusFifoFields (L : Layout) (chipId sel fstat fpos : Nat) : List (Field × Nat) :=
  commandFields chipId 1 L.cmdControl ++ [(L.crSel, sel), (L.stFstat, fstat), (L.stFpos, fpos)]

/-- Response with view 3 (R95, R164). -/
def statusClkhiFields (L : Layout) (chipId fstat fpos hinib pll : Nat) : List (Field × Nat) :=
  commandFields chipId 1 L.cmdControl ++
    [(L.crSel, 3), (L.stFstat, fstat), (L.stFpos, fpos), (L.stHinib, hinib), (L.stPll, pll)]

/-- `PR.WRITE` (`rwb` 0) and `PR.READ.RESP` (`rwb` 1) (R96, R184, R187). -/
def prEntryFields (L : Layout) (chipId rwb adr p1 p2 p3 : Nat) : List (Field × Nat) :=
  commandFields chipId rwb L.cmdParamram ++
    [(L.prSub, 0), (L.prAdr, adr), (L.prP1, p1), (L.prP2, p2), (L.prP3, p3)]

/-- `PR.READ` (R96, R186): the parameter fields of the request are 0. -/
def prReadFields (L : Layout) (chipId adr : Nat) : List (Field × Nat) :=
  commandFields chipId 1 L.cmdParamram ++ [(L.prSub, 0), (L.prAdr, adr)]

/-- `PR.PERIOD` (R96, R191). -/
def prPeriodFields (L : Layout) (chipId period : Nat) : List (Field × Nat) :=
  commandFields chipId 0 L.cmdParamram ++ [(L.prSub, 1), (L.prPeriod, period)]

/-- `PR.LUT` (R96, R192). -/
def prLutFields (L : Layout) (chipId idx time boost rep step : Nat) : List (Field × Nat) :=
  commandFields chipId 0 L.cmdParamram ++
    [(L.prSub, 2), (L.lutIdx, idx), (L.lutTime, time), (L.lutBoost, boost), (L.lutRepeat, rep), (L.lutStep, step)]

/-- `PR.COUNT` (R96, R193). -/
def prCountFields (L : Layout) (chipId count : Nat) : List (Field × Nat) :=
  commandFields chipId 0 L.cmdParamram ++ [(L.prSub, 3), (L.prCount, count)]

/-- Every synapse-control word (R97, R248): operands a sub-command does not use are 0. -/
def scFields (L : Layout) (chipId rwb sub row col data : Nat) : List (Field × Nat) :=
  commandFields chipId rwb L.cmdSynram ++ [(L.scSub, sub), (L.scRow, row), (L.scCol, col), (L.scData, data)]

/-- The delay-line word (R98, R234). -/
def delayFields (L : Layout) (chipId adr val : Nat) : List (Field × Nat) :=
  [(Field.chipid, chipId), (L.dlAdr, adr), (L.dlVal, val)]

/-- The four fields of slot `k` (R93, R211). -/
def slotFields (k valid tbin tlsb nadr : Nat) : List (Field × Nat) :=
  [(Field.evValid k, valid), (Field.evTbin k, tbin), (Field.evTlsb k, tlsb), (Field.evNadr k, nadr)]

/-- The command code of one of the five bare commands (R92). -/
def MiscCmd.code (L : Layout) : MiscCmd → Nat
  | .sync => L.cmdSync
  | .loopback => L.cmdLoopback
  | .areadout => L.cmdAreadout
  | .evloopback => L.cmdEvloopback
  | .dummycmd => L.cmdDummycmd

/-- The four fields of slot `k` of an instruction. -/
def Slot.fields (k : Nat) (s : Slot) : List (Field × Nat) :=
  slotFields k s.valid.toNat s.tbin.toNat s.tlsb.toNat s.nadr.toNat

/-- The fields of an instruction's word with their values, in the order of the inserts. -/
def Instr.fields (L : Layout) : Instr → List (Field × Nat)
  | .empty => [(Field.chipid, 15)]
  | .dlSet chip adr val => delayFields L chip adr val.toNat
  | .event chip tmsb s0 s1 s2 =>
      [(Field.eventp, 1), (Field.chipid, chip.val), (Field.evTmsb, tmsb.toNat)]
        ++ s0.fields 0 ++ s1.fields 1 ++ s2.fields 2
  | .errorResp chip rwb cmd ci => rawCommandFields chip rwb.toNat cmd.toNat ci.toNat
  | .sync chip rwb ci => rawCommandFields chip rwb.toNat L.cmdSync ci.toNat
  | .loopback chip rwb ci => rawCommandFields chip rwb.toNat L.cmdLoopback ci.toNat
  | .prWrite chip adr p1 p2 p3 => prEntryFields L chip 0 adr p1 p2 p3
  | .prRead chip adr => prReadFields L chip adr
  | .prReadResp chip adr p1 p2 p3 => prEntryFields L chip 1 adr p1 p2 p3
  | .prPeriod chip period => prPeriodFields L chip period
  | .prLut chip idx time boost rep step => prLutFields L chip idx time boost rep step
  | .prCount chip count => prCountFields L chip count
  | .ctrlWrite chip val fmask => ctrlWriteFields L chip val.toNat fmask.toNat
  | .statusRead0 chip => statusReadFields L chip 0
  | .statusRead1 chip => statusReadFields L chip 1
  | .statusRead2 chip => statusReadFields L chip 2
  | .statusRead3 chip => statusReadFields L chip 3
  | .statusResp0 chip ctrl rev => statusControlFields L chip ctrl.toNat rev
  | .statusResp1 chip fstat fpos => statusFifoFields L chip 1 fstat.toNat fpos
  | .statusResp2 chip fstat fpos => statusFifoFields L chip 2 fstat.toNat fpos
  | .statusResp3 chip fstat fpos hinib pll => statusClkhiFields L chip fstat.toNat fpos hinib.toNat pll.toNat
  | .scCtrlR chip => scFields L chip 1 0 0 0 0
  | .scTimeW chip data => scFields L chip 0 1 0 0 data
  | .scTimeR chip => scFields L chip 1 1 0 0 0
  | .scPlutW chip row col data => scFields L chip 0 2 row col data
  | .scPlutR chip row col => scFields L chip 1 2 row col 0
  | .scSynW chip row col data => scFields L chip 0 3 row col data
  | .scSynR chip row col => scFields L chip 1 3 row col 0
  | .scClose chip => scFields L chip 0 4 0 0 0
  | .scCorRead chip col => scFields L chip 1 5 0 col 0
  | .scPcor chip => scFields L chip 0 6 0 0 0
  | .scPcorc chip => scFields L chip 0 7 0 0 0
  | .scResp chip sub row col data => scFields L chip 1 sub.toNat row col data
  | .areadout chip rwb ci => rawCommandFields chip rwb.toNat L.cmdAreadout ci.toNat
  | .evloopback chip rwb ci => rawCommandFields chip rwb.toNat L.cmdEvloopback ci.toNat
  | .dummycmd chip rwb ci => rawCommandFields chip rwb.toNat L.cmdDummycmd ci.toNat

/-! The decoders. -/

/-- Why a decoder gives no instruction. -/
inductive DecodeError where
  /-- The error flag is set in a word received as a request (R114, R284). -/
  | errorFlagOnRequest (cmd : Nat)
  /-- A combination of `cmd`, `cmdrwb` and sub-command with no row (R115). -/
  | reservedCombination (cmd rwb sub : Nat)
  /-- A command code of no family; a well-formed layout has none (R115). -/
  | unknownCommand (cmd : Nat)
  /-- A command word arrives for a chip with nothing pending (R150). -/
  | nothingPending (chip : ChipId)
  deriving DecidableEq, Repr

/-- The bits of slot `k` (R93, R211). -/
def slotOf (w : Word) (k : Nat) : Slot where
  valid := BitVec.ofNat 1 (get w (Field.evValid k))
  tbin := BitVec.ofNat 4 (get w (Field.evTbin k))
  tlsb := BitVec.ofNat 4 (get w (Field.evTlsb k))
  nadr := BitVec.ofNat 9 (get w (Field.evNadr k))

/-- An event word (R93), at either face. -/
def decodeEvent (chip : ChipId) (w : Word) : Instr :=
  .event chip (BitVec.ofNat 4 (get w Field.evTmsb)) (slotOf w 0) (slotOf w 1) (slotOf w 2)

/-- A delay-line word (R98). -/
def decodeDelay (L : Layout) (chip : ChipId) (w : Word) : Instr :=
  .dlSet chip (get w L.dlAdr) (BitVec.ofNat 3 (get w L.dlVal))

/-- The parameter-RAM family at the device (R96, R189). -/
def decodeParam (L : Layout) (chip : ChipId) (w : Word) : Except DecodeError Instr :=
  match get w L.prSub, get w Field.cmdrwb with
  | 0, 0 => .ok (.prWrite chip (get w L.prAdr) (get w L.prP1) (get w L.prP2) (get w L.prP3))
  | 0, _ => .ok (.prRead chip (get w L.prAdr))
  | 1, 0 => .ok (.prPeriod chip (get w L.prPeriod))
  | 2, 0 => .ok (.prLut chip (get w L.lutIdx) (get w L.lutTime) (get w L.lutBoost) (get w L.lutRepeat)
      (get w L.lutStep))
  | 3, 0 => .ok (.prCount chip (get w L.prCount))
  | sub, rwb => .error (.reservedCombination L.cmdParamram rwb sub)

/-- The control family at the device (R94, R158, R160). -/
def decodeControl (L : Layout) (chip : ChipId) (w : Word) : Instr :=
  match get w Field.cmdrwb, get w L.crSel with
  | 0, _ => .ctrlWrite chip (BitVec.ofNat 32 (get w L.crVal)) (BitVec.ofNat 8 (get w L.crFmask))
  | _, 0 => .statusRead0 chip
  | _, 1 => .statusRead1 chip
  | _, 2 => .statusRead2 chip
  | _, _ => .statusRead3 chip

/-- The synapse-control family at the device (R97, R249). A row or column field that the sub-command does not use is not
read: R97 has it ignored. That a nonzero one of a foreign word is then not echoed either, where R254 speaks of an echo, is
the model's choice (notes/assumptions/33). -/
def decodeSynapse (L : Layout) (chip : ChipId) (w : Word) : Except DecodeError Instr :=
  match get w L.scSub, get w Field.cmdrwb with
  | 0, 1 => .ok (.scCtrlR chip)
  | 1, 0 => .ok (.scTimeW chip (get w L.scData))
  | 1, _ => .ok (.scTimeR chip)
  | 2, 0 => .ok (.scPlutW chip (get w L.scRow) (get w L.scCol) (get w L.scData))
  | 2, _ => .ok (.scPlutR chip (get w L.scRow) (get w L.scCol))
  | 3, 0 => .ok (.scSynW chip (get w L.scRow) (get w L.scCol) (get w L.scData))
  | 3, _ => .ok (.scSynR chip (get w L.scRow) (get w L.scCol))
  | 4, 0 => .ok (.scClose chip)
  | 5, 1 => .ok (.scCorRead chip (get w L.scCol))
  | 6, 0 => .ok (.scPcor chip)
  | 7, 0 => .ok (.scPcorc chip)
  | sub, rwb => .error (.reservedCombination L.cmdSynram rwb sub)

/-- A bare command with its raw operands (R99, R281). -/
def decodeMisc (cmd : MiscCmd) (chip : ChipId) (w : Word) : Instr :=
  match cmd with
  | .sync => .sync chip (BitVec.ofNat 1 (get w Field.cmdrwb)) (BitVec.ofNat 53 (get w Field.ci))
  | .loopback => .loopback chip (BitVec.ofNat 1 (get w Field.cmdrwb)) (BitVec.ofNat 53 (get w Field.ci))
  | .areadout => .areadout chip (BitVec.ofNat 1 (get w Field.cmdrwb)) (BitVec.ofNat 53 (get w Field.ci))
  | .evloopback => .evloopback chip (BitVec.ofNat 1 (get w Field.cmdrwb)) (BitVec.ofNat 53 (get w Field.ci))
  | .dummycmd => .dummycmd chip (BitVec.ofNat 1 (get w Field.cmdrwb)) (BitVec.ofNat 53 (get w Field.ci))

/-- A command packet at the device (R106 step 5, R148). -/
def decodeCommand (L : Layout) (chip : ChipId) (w : Word) : Except DecodeError Instr :=
  let c := get w Field.cmd
  if c % 2 = 1 then .error (.errorFlagOnRequest c)
  else if c = L.cmdParamram then decodeParam L chip w
  else if c = L.cmdControl then .ok (decodeControl L chip w)
  else if c = L.cmdSynram then decodeSynapse L chip w
  else if c = L.cmdSync then .ok (decodeMisc .sync chip w)
  else if c = L.cmdLoopback then .ok (decodeMisc .loopback chip w)
  else if c = L.cmdAreadout then .ok (decodeMisc .areadout chip w)
  else if c = L.cmdEvloopback then .ok (decodeMisc .evloopback chip w)
  else if c = L.cmdDummycmd then .ok (decodeMisc .dummycmd chip w)
  else .error (.unknownCommand c)

/-- The decoder of the device face (R106), for the instance the word is addressed to: the empty word first, then
the mode pin, then the packet's kind. -/
def decodeDevice (L : Layout) (addrMode : Bool) (w : Word) : Except DecodeError Instr :=
  if h : get w Field.chipid < 15 then
    if addrMode then .ok (decodeDelay L ⟨get w Field.chipid, h⟩ w)
    else if get w Field.eventp = 1 then .ok (decodeEvent ⟨get w Field.chipid, h⟩ w)
    else decodeCommand L ⟨get w Field.chipid, h⟩ w
  else .ok .empty

/-- A response parsed by the kind of the read it answers, not by its own bits (R107). -/
def decodeByKind (L : Layout) (chip : ChipId) (w : Word) : ReadKind → Instr
  | .status 0#2 => .statusResp0 chip (BitVec.ofNat 32 (get w L.stCtrl)) (get w L.stRev)
  | .status 1#2 => .statusResp1 chip (BitVec.ofNat 4 (get w L.stFstat)) (get w L.stFpos)
  | .status 2#2 => .statusResp2 chip (BitVec.ofNat 4 (get w L.stFstat)) (get w L.stFpos)
  | .status _ => .statusResp3 chip (BitVec.ofNat 4 (get w L.stFstat)) (get w L.stFpos)
      (BitVec.ofNat 4 (get w L.stHinib)) (BitVec.ofNat 1 (get w L.stPll))
  | .param _ => .prReadResp chip (get w L.prAdr) (get w L.prP1) (get w L.prP2) (get w L.prP3)
  | .synram _ => .scResp chip (BitVec.ofNat 3 (get w L.scSub)) (get w L.scRow) (get w L.scCol) (get w L.scData)
  | .misc cmd => decodeMisc cmd chip w

/-- The decoder of RSP (R107, R150): the empty word first, then an event word, then the oldest pending read of the
chip decides, the error flag before the read's kind. -/
def decodeResponse (L : Layout) (pendingOf : ChipId → Option ReadKind) (w : Word) : Except DecodeError Instr :=
  if h : get w Field.chipid < 15 then
    if get w Field.eventp = 1 then .ok (decodeEvent ⟨get w Field.chipid, h⟩ w)
    else
      match pendingOf ⟨get w Field.chipid, h⟩ with
      | none => .error (.nothingPending ⟨get w Field.chipid, h⟩)
      | some kind =>
        if get w Field.cmd % 2 = 1 then
          .ok (.errorResp ⟨get w Field.chipid, h⟩ (BitVec.ofNat 1 (get w Field.cmdrwb))
            (BitVec.ofNat 4 (get w Field.cmd)) (BitVec.ofNat 53 (get w Field.ci)))
        else .ok (decodeByKind L ⟨get w Field.chipid, h⟩ w kind)
  else .ok .empty

/-- What the host's question about a table row asks of the decoders: the word as the device reads it in packet mode
in the reference layout, and, where the device refuses it for its error flag, as RSP reads it. The rows that share
their words with a request (responses) or with a packet (DL.SET) cannot be told apart by the word (R107, R237). -/
def decodeTableWord (nbits w : Nat) : Option Instr :=
  match decodeDevice Layout.reference false (BitVec.ofNat 64 (w % 2 ^ nbits)) with
  | .ok i => some i
  | .error (.errorFlagOnRequest _) =>
      (decodeResponse Layout.reference (fun _ => some (.param 0)) (BitVec.ofNat 64 (w % 2 ^ nbits))).toOption
  | .error _ => none

/-! The encoder. -/

/-- The word of an instruction (R91 to R99). -/
def encode (L : Layout) (i : Instr) : Word := assemble (i.fields L)

end Sys2Proof
end

