-- ==== Sys2Proof/Machine/State.lean ====
section
/-! DEFINITION. The machine's state as plain data (10_state R20 to R56, 20_memory R60), how it stops, and the machine
right after reset (R55, R330). Fields marked MODEL are the model's own, not the spec's (INVENTORY.md, State). -/

namespace Sys2Proof.Machine

/-- An address space (R60): (element number, element) pairs, numbers strictly rising (`Memory.wf`). An element number
that is not listed has not been written since reset (or since the pass that made it unspecified) and reads as a
fresh draw (R188, R253, R265): the spec gives it no content. Elements are whole entries, never bytes (R68, R71). -/
abbrev Memory (α : Type) := List (Nat × α)

/-- A register without a reset value (R332): `value` is what it holds; `defined` (MODEL) says that a word has written
it since reset. Before that `value` is the model's reset value, which no read shows (notes/assumptions/4). -/
structure SoftReg where
  value : Nat
  defined : Bool
  deriving DecidableEq, Repr

/-- A device instance: the state of R28 to R46 and `DONE`, `CMERR`, `BUSY`, once per chip (R54). Its chip id is its
index in `State.chips`. -/
structure Chip where
  /-- MODEL: an instance is strapped to this chip id (`chip_id` of R52). -/
  present : Bool
  /-- `REVISION` (R46). -/
  revision : Nat
  /-- The control register (R28). -/
  cr : BitVec 32
  /-- Parameter RAM (R38). -/
  pram : Memory Triple
  /-- Period register (R39). -/
  period : SoftReg
  /-- Lookup table (R40). -/
  lut : Memory LutEntry
  /-- Parameter count, the address-counter stop value (R41). -/
  pcount : SoftReg
  /-- Delay values (R42). -/
  dl : Memory (BitVec 3)
  /-- Synapse RAM, row-major (R43). -/
  syn : Memory Nat
  /-- Plasticity lookup, row-major (R43). -/
  plut : Memory Nat
  /-- Synapse timing register (R44). -/
  sctime : SoftReg
  done : Bool
  cmerr : Bool
  busy : Bool
  /-- Output `ev_out` (R53): the events delivered so far, oldest first. -/
  evOut : List Event
  deriving DecidableEq, Repr

/-- The row state of a chip (R47). -/
inductive RowState where
  | idle
  | rowOpen (row : Nat)
  | processing (row : Nat)
  deriving DecidableEq, Repr

/-- The FSM-enabled tracker (R200). -/
inductive PrFsm where
  | unknown
  | disabled
  | enabled
  deriving DecidableEq, Repr

/-- MODEL: a verify batch in progress (R196): the caller whose batch it is, the entries still to read, the one whose
response is awaited, and whether an error of a read has ended it (D25). -/
structure Batch where
  caller : Nat
  todo : List (Nat × Triple)
  awaiting : Option (Nat × Triple)
  failed : Bool
  deriving DecidableEq, Repr

/-- The encode face's state for one chip id (R47, R48, R50, R51, R200). -/
structure Tracker where
  row : RowState
  /-- `PENDING`: the reads sent and not yet answered, oldest first (R48). -/
  pending : List ReadKind
  poison : Bool
  prfsm : PrFsm
  /-- `VFAIL` of this chip's latest verify batch (R50). -/
  vfail : List Mismatch
  batch : Option Batch
  /-- MODEL: how many reads this chip id has been sent; a read's number is this before it (notes/assumptions/30). -/
  readsSent : Nat
  /-- MODEL: how the reads answered so far ended, each with its number: what a waiting caller looks for (R150). -/
  answers : List (Nat × Result)
  deriving DecidableEq, Repr

/-- Which face's consumer took the word that is being run. -/
inductive Side where
  | device
  | requester
  deriving DecidableEq, Repr

/-- The whole block: device instances, trackers, link, mode pin, outputs, and what is still to come. -/
structure State where
  /-- MODEL: the configuration record of R9; no step writes it. -/
  layout : Layout
  /-- The mode pin (R52, R233): true is address mode. -/
  addrMode : Bool
  chips : Vector Chip 15
  trackers : Vector Tracker 16
  /-- The overflow log; `FOVF` is 'not empty' (R49). -/
  overflowLog : List Overflow
  /-- The FIFO toward the device, oldest word first (R80). -/
  toDevice : List Word
  /-- The FIFO toward the requester, oldest word first (R80). -/
  toRequester : List Word
  /-- Output `ev_out` of the requester's side (R150). -/
  evDelivered : List (ChipId × Event)
  /-- Output `result` (R53): the chip id the request named, if any, and how it ended; oldest first. -/
  results : List (Option Nat × Result)
  /-- MODEL: how many free values have been taken (R13 `draw`). -/
  draws : Nat
  /-- MODEL: who consumed the word being run. -/
  side : Side
  /-- MODEL: for each caller, an independent sequential context (R324), its actions still to come. -/
  scripts : List (List Action)
  /-- MODEL: which agent takes each of the next steps. -/
  schedule : List Agent
  deriving DecidableEq, Repr

/-- The faults. The block itself has none: its errors are values returned to the caller (R290, R312). -/
inductive Fault where
  /-- Raised by `step` over a layout that breaks R10: the rules are stated only over well-formed layouts. Safe: the
  machine stops where the spec says nothing. -/
  | illFormedLayout
  deriving DecidableEq, Repr

/-- The refusals of R304, and the arm of an instruction without a meaning. All are safe: the model stops where the
spec gives no meaning. -/
inductive Refusal where
  /-- The device receives a word whose encoding has no meaning (R114, R115, R117). -/
  | undefinedEncoding
  /-- The device receives one of the five bare commands (R275). -/
  | unmodelled
  /-- A request in the wrong mode, or a mode change with words in flight (R237, R239). -/
  | modeViolation
  /-- RSP receives a command word for a chip with nothing pending (R150). -/
  | unexpectedResponse
  /-- A second request for a chip while one is in flight (R83, R343). -/
  | concurrentIssue
  /-- `packEvents` with more than three records (R213). -/
  | tooManyEvents
  /-- `packEvents` with valid records of different time MSB (R213). -/
  | timeMsbMismatch
  /-- A synapse-control request in a row state without an arrow, or a row-bound word at a busy device (R249, R261). -/
  | unspecifiedTransition
  /-- A synapse-control request after `CommandDecodeError` (R264). -/
  | poisoned
  /-- An instruction that `exec` gives no meaning yet; no arm uses it. -/
  | notModelled (mnemonic : String)
  deriving DecidableEq, Repr

/-- The reset value of `CR` (R33, R330): the three reset fields all ones, every other bit 0. -/
def crReset (L : Layout) : BitVec 32 :=
  (0xFF#32 <<< L.crEinRstPos) ||| (0xFF#32 <<< L.crEinbRstPos) ||| (0xFF#32 <<< L.crEoutRstPos)

/-- A register no word has written since reset (R332); the value 0 is the model's (notes/assumptions/4). -/
def SoftReg.reset : SoftReg := ⟨0, false⟩

/-- A device instance after the reset step (R330); the strap, the revision and what was delivered are not changed. -/
def Chip.reset (L : Layout) (present : Bool) (revision : Nat) (evOut : List Event) : Chip where
  present := present
  revision := revision
  cr := crReset L
  pram := []
  period := .reset
  lut := []
  pcount := .reset
  dl := []
  syn := []
  plut := []
  sctime := .reset
  done := false
  cmerr := false
  busy := false
  evOut := evOut

/-- A tracker of the machine right after reset (R330), with no batch in progress and no read sent yet. -/
def Tracker.reset : Tracker where
  row := .idle
  pending := []
  poison := false
  prfsm := .disabled
  vfail := []
  batch := none
  readsSent := 0
  answers := []

/-- A chip of the machine right after power-up: present, with its own revision (R46), nothing delivered. -/
def Chip.powerUp (L : Layout) (k : ChipId) : Chip :=
  Chip.reset L true (Config.revision k % 2 ^ L.revW) []

/-- The machine right after reset (R55, R330), in the reference layout, with an instance at every chip id. -/
def State.reset : State where
  layout := .reference
  addrMode := false
  chips := #v[Chip.powerUp .reference 0, Chip.powerUp .reference 1, Chip.powerUp .reference 2,
    Chip.powerUp .reference 3, Chip.powerUp .reference 4, Chip.powerUp .reference 5, Chip.powerUp .reference 6,
    Chip.powerUp .reference 7, Chip.powerUp .reference 8, Chip.powerUp .reference 9, Chip.powerUp .reference 10,
    Chip.powerUp .reference 11, Chip.powerUp .reference 12, Chip.powerUp .reference 13, Chip.powerUp .reference 14]
  trackers := #v[.reset, .reset, .reset, .reset, .reset, .reset, .reset, .reset, .reset, .reset, .reset, .reset,
    .reset, .reset, .reset, .reset]
  overflowLog := []
  toDevice := []
  toRequester := []
  evDelivered := []
  results := []
  draws := 0
  side := .device
  scripts := []
  schedule := []

end Sys2Proof.Machine
end

