-- ==== Sys2Proof/Machine/Ops.lean ====
section
/-! DEFINITION. The named operations over memories, device instances, trackers, the link, the outputs and the free
values; raising an error; the reset step. Every meaning is written over these. -/

namespace Sys2Proof.Machine

/-! Memories (R13 `MemRead`, `MemWrite`; R60). -/

/-- The canonical form: element numbers strictly rising. -/
def Memory.wf {α : Type} : Memory α → Bool
  | [] => true
  | (a, _) :: m => m.all (fun e => decide (a < e.1)) && Memory.wf m

/-- The element written at `a`, if any. -/
def Memory.read {α : Type} : Memory α → Nat → Option α
  | [], _ => none
  | (b, v) :: m, a => if a = b then some v else Memory.read m a

/-- `MemWrite`: replaces the element at `a`, and keeps the canonical form. -/
def Memory.write {α : Type} : Memory α → Nat → α → Memory α
  | [], a, v => [(a, v)]
  | (b, u) :: m, a, v =>
    if a < b then (a, v) :: (b, u) :: m
    else if a = b then (a, v) :: m
    else (b, u) :: Memory.write m a v

/-- Every listed element has its number below `size` and satisfies `p`. -/
def Memory.within {α : Type} (m : Memory α) (size : Nat) (p : α → Bool) : Bool :=
  m.all fun e => decide (e.1 < size) && p e.2

/-- A word writes a register (R332). -/
def SoftReg.write (_ : SoftReg) (v : Nat) : SoftReg := ⟨v, true⟩

/-! Device instances and trackers. -/

/-- The device instance at chip id `k`. -/
def State.chip (s : State) (k : ChipId) : Chip := s.chips[k]

/-- Replaces the device instance at chip id `k`. -/
def State.setChip (s : State) (k : ChipId) (c : Chip) : State := { s with chips := s.chips.set k c }

/-- The tracker of chip id `r` (0..15, R48). -/
def State.tracker (s : State) (r : ReqId) : Tracker := s.trackers[r]

/-- Replaces the tracker of chip id `r`. -/
def State.setTracker (s : State) (r : ReqId) (t : Tracker) : State := { s with trackers := s.trackers.set r t }

/-- A device instance's chip id as the encode face's. -/
def reqOf (k : ChipId) : ReqId := k.castSucc

/-! Reads in flight. They are numbered so that a caller knows the answer to its own read (notes/assumptions/30). -/

/-- A read of this kind has been sent: it is pushed on `PENDING` (R48, R149). -/
def Tracker.push (t : Tracker) (kind : ReadKind) : Tracker :=
  { t with pending := t.pending ++ [kind], readsSent := t.readsSent + 1 }

/-- The number of the oldest read in flight, or of the next one sent where none is. -/
def Tracker.oldestRead (t : Tracker) : Nat := t.readsSent - t.pending.length

/-- The oldest read in flight has ended in `r` and is taken off `PENDING` (R150). -/
def Tracker.answer (t : Tracker) (r : Result) : Tracker :=
  { t with pending := t.pending.tail, answers := t.answers ++ [(t.oldestRead, r)] }

/-- How the read with this number ended; none while it is not answered, and for ever if a reset has taken it (R334). -/
def Tracker.answerTo (t : Tracker) (read : Nat) : Option Result :=
  (t.answers.find? fun e => e.1 == read).map (·.2)

/-! Free values (R13 `draw`, R16). -/

/-- The next free value of `w` bits, `i` places ahead. -/
def State.drawAt (s : State) (i w : Nat) : BitVec w := Config.draw w (s.draws + i)

/-- `n` free values have been taken. -/
def State.took (s : State) (n : Nat) : State := { s with draws := s.draws + n }

/-! Callers. -/

/-- The script of a caller: its actions still to come. -/
def State.script (s : State) (caller : Nat) : List Action := s.scripts.getD caller []

/-- Replaces the script of a caller. -/
def State.setScript (s : State) (caller : Nat) (actions : List Action) : State :=
  { s with scripts := s.scripts.set caller actions }

/-- Puts actions before the rest of a caller's script. -/
def State.expand (s : State) (caller : Nat) (actions : List Action) : State :=
  s.setScript caller (actions ++ s.script caller)

/-! Link and outputs. -/

/-- `send(w)` of the encode face (R13): to the FIFO toward the device. -/
def State.send (s : State) (w : Word) : State := { s with toDevice := s.toDevice ++ [w] }

/-- `respond(w)` of the device face (R13): to the FIFO toward the requester. -/
def State.respond (s : State) (w : Word) : State := { s with toRequester := s.toRequester ++ [w] }

/-- The end of a request goes to the caller on `result` (R53, R312). -/
def State.report (s : State) (chipId : Option Nat) (r : Result) : State :=
  { s with results := s.results ++ [(chipId, r)] }

/-- RAISING AN ERROR (R312, R314): nothing is saved, no mode changes, the error value goes to the caller; the one
shared operation for every error kind that ends a request. There is no return from it (R316). -/
def State.raise (s : State) (chipId : Option Nat) (e : ErrorKind) : State := s.report chipId (.error e)

/-- Truncations are logged and the request goes on (R292). -/
def State.logOverflows (s : State) (os : List Overflow) : State := { s with overflowLog := s.overflowLog ++ os }

/-! The device face's test of the chip id. -/

/-- A device meaning applies to the instance with the word's chip id; with no such instance on the link every
instance skips the word (R147). -/
def onDevice (k : ChipId) (s : State) (f : Chip → Host.Outcome State Fault Refusal) :
    Host.Outcome State Fault Refusal :=
  if (s.chip k).present then f (s.chip k) else .next s

/-- Applies `f` to every element of a vector. -/
def mapVector {α β : Type} {n : Nat} (f : α → β) (v : Vector α n) : Vector β n :=
  ⟨⟨v.toList.map f⟩, by simp⟩

/-! Reset. -/

/-- A device instance in the reset step (R330): the strap and the revision are not changed. -/
def Chip.resetStep (L : Layout) (c : Chip) : Chip := Chip.reset L c.present c.revision c.evOut

/-- The verify batch of a tracker whose reads in flight are lost: a batch that awaits one of them is lost with it, and its
caller waits for ever (R334, R305); a batch between two reads goes on (notes/assumptions/29). -/
def Tracker.batchWithoutReads (t : Tracker) : Option Batch := t.batch.filter (·.awaiting.isNone)

/-- A tracker in the reset step (R330). The numbering of the reads goes on, so that a read that a reset has taken is
never answered by a later one (R334; notes/assumptions/29, 30). -/
def Tracker.resetStep (t : Tracker) : Tracker :=
  { Tracker.reset with batch := t.batchWithoutReads, readsSent := t.readsSent, answers := t.answers }

/-- The reset step of ENV (R330): every instance, every tracker, the log, both FIFOs and the mode pin. -/
def State.resetStep (s : State) : State :=
  { s with
    addrMode := false
    chips := mapVector (Chip.resetStep s.layout) s.chips
    trackers := mapVector Tracker.resetStep s.trackers
    overflowLog := []
    toDevice := []
    toRequester := [] }

/-- A tracker when the encode face alone restarts (R337): `ROW`, `PENDING` and `PRFSM`; the reads in flight are lost as
at a reset (notes/assumptions/29). -/
def Tracker.restart (t : Tracker) : Tracker :=
  { t with row := .idle, pending := [], prfsm := .unknown, batch := t.batchWithoutReads }

/-- Restart of the encode face alone (R337). R337 does not speak of the words in flight: the model's choice is that both
FIFOs stay, so that the response to a lost read may still come, and is then refused as unexpected or pairs with a later
read (R82, R150; notes/assumptions/19). -/
def State.restartEncodeFace (s : State) : State :=
  { s with trackers := mapVector Tracker.restart s.trackers }

end Sys2Proof.Machine
end

