-- ==== Sys2Proof/Machine/Flags.lean ====
section
/-! DEFINITION. The status bits of R23: what sets, clears and shows each. The block has no condition codes. -/

namespace Sys2Proof.Machine

/-- `FOVF` (R49): set by the first truncation, cleared by reset only. -/
def State.fovf (s : State) : Bool := !s.overflowLog.isEmpty

/-- Issue of `SC.PCOR` or `SC.PCORC` at the device: `DONE <- 0; BUSY <- 1` (R259). -/
def Chip.startPass (c : Chip) : Chip := { c with done := false, busy := true }

/-- The completion step of a pass (R263): `BUSY <- 0; DONE <- 1`, and every entry of `SYN` is unspecified (R265). -/
def Chip.completePass (c : Chip) : Chip := { c with busy := false, done := true, syn := [] }

/-- ENV sets `CMERR` (R26). -/
def Chip.setCmerr (c : Chip) : Chip := { c with cmerr := true }

/-- The data field of a ctrl/status response: `DONE` and `CMERR` at their offsets, the rest 0 (R97, R250). -/
def Chip.ctrlData (L : Layout) (c : Chip) : Nat :=
  c.done.toNat * 2 ^ L.scDoneOff + c.cmerr.toNat * 2 ^ L.scCmerrOff

/-- A fifo-status nibble as four booleans (R104). -/
def decodeNibble (L : Layout) (n : BitVec 4) : FifoStatus where
  full := n.getLsbD L.fsFull
  almostFull := n.getLsbD L.fsAfull
  halfFull := n.getLsbD L.fsHfull
  error := n.getLsbD L.fsErr

/-- The parameter-RAM update FSM is idle (R198): `pram_en` = 0 and `PCOUNT` = 0, the latter written by software. -/
def Chip.fsmIdle (L : Layout) (c : Chip) : Bool :=
  get c.cr (L.crField .pramEn) == 0 && c.pcount == ⟨0, true⟩

end Sys2Proof.Machine
end

