-- ==== Sys2Proof/Machine/Operands.lean ====
section
/-! DEFINITION. Operand forms: the bank table of the parameter RAM (R74 to R77), element numbers of the synapse
memories, reads that may be free values (R188, R253, R332), the fields of the control register, status views, event
slots, and the decoding of a response by the kind of its read. -/

namespace Sys2Proof.Machine

/-! The parameter RAM's address map. -/

/-- `start[k]`: the cumulative sum of the sizes of the banks before number `k` (R74, R75). -/
def bankStart (L : Layout) (k : Nat) : Nat := (L.prBankSize.take k).sum

/-- The bank and the offset of an address among these banks with their sizes, in their order. -/
def resolveBank : List (Bank × Nat) → Nat → Option (Bank × Nat)
  | [], _ => none
  | (bank, size) :: banks, a => if a < size then some (bank, a) else resolveBank banks (a - size)

/-- `bank_of(a)` and `offset_of(a)` (R77); none at and beyond `PR_TOTAL`. -/
def bankOf (L : Layout) (a : Nat) : Option (Bank × Nat) := resolveBank (Bank.all.zip L.prBankSize) a

/-- `address_of(bank, o)` for `o` below the size of the bank (R77). -/
def addressOf (L : Layout) (bank : Bank) (o : Nat) : Option Nat :=
  match L.prBankSize[bank.index]? with
  | some size => if o < size then some (bankStart L bank.index + o) else none
  | none => none

/-- The address names an entry of the parameter RAM (R66, R183). -/
def paramAddressOk (L : Layout) (a : Nat) : Bool := decide (a < L.prTotal)

/-! Element numbers. -/

/-- The element number of (row, column) in `SYN` and `PLUT`, row-major (notes/assumptions/21). -/
def synapseIndex (L : Layout) (row col : Nat) : Nat := row * L.scCols + col

/-- (row, column) names an element of `SYN` and `PLUT` (R117). -/
def synapseAddressOk (L : Layout) (row col : Nat) : Bool := decide (row < L.scRows) && decide (col < L.scCols)

/-! Reads. -/

/-- A triple read from the parameter RAM: a free value where nothing was written (R188). -/
def readTriple (s : State) (m : Memory Triple) (a : Nat) : Triple × State :=
  match m.read a with
  | some t => (t, s)
  | none =>
    (⟨(s.drawAt 0 s.layout.prPW).toNat, (s.drawAt 1 s.layout.prPW).toNat, (s.drawAt 2 s.layout.prPW).toNat⟩, s.took 3)

/-- An element read from `SYN` or `PLUT`: a free value where nothing was written (R253, R332). -/
def readData (s : State) (m : Memory Nat) (a : Nat) : Nat × State :=
  match m.read a with
  | some v => (v, s)
  | none => ((s.drawAt 0 s.layout.scData.width).toNat, s.took 1)

/-- `SCTIME` read: a free value before the first write (R332). -/
def readReg (s : State) (r : SoftReg) (w : Nat) : Nat × State :=
  if r.defined then (r.value, s) else ((s.drawAt 0 w).toNat, s.took 1)

/-! The control register. -/

/-- The masked write (R158): every field whose mask bit is 1 takes its bits of `val`; no other bit changes. -/
def maskedWrite (L : Layout) (cr val : BitVec 32) (fmask : BitVec 8) : BitVec 32 :=
  ControlField.all.foldl
    (fun r f => if fmask.getLsbD f.index then put r (L.crField f) (get val (L.crField f)) else r) cr

/-- The control register's fields by name (R166). -/
def controlView (L : Layout) (cr : BitVec 32) : ControlView where
  anaclkEn := get cr (L.crField .anaclkEn) == 1
  anaclkhiEn := get cr (L.crField .anaclkhiEn) == 1
  pramEn := get cr (L.crField .pramEn) == 1
  errOutEn := get cr (L.crField .errOutEn) == 1
  earlydebug := get cr (L.crField .earlydebug) == 1
  einRst := BitVec.ofNat 8 (get cr (L.crField .einRst))
  einbRst := BitVec.ofNat 8 (get cr (L.crField .einbRst))
  eoutRst := BitVec.ofNat 8 (get cr (L.crField .eoutRst))

/-- The value word of a control write request, each named field at its own position (R103, R157). -/
def controlValue (L : Layout) (m : ControlMap) : BitVec 32 :=
  ControlField.all.foldl
    (fun v f => match m.get f with | some x => put v (L.crField f) x | none => v) 0#32

/-- The mask of a control write request: one bit per named field (R103, R157). -/
def controlMask (m : ControlMap) : BitVec 8 :=
  ControlField.all.foldl (fun k f => if (m.get f).isSome then putBits k f.index 1 1 else k) 0#8

/-- The truncations of a control write request, in field order (R157). -/
def controlOverflows (L : Layout) (m : ControlMap) : List Overflow :=
  ControlField.all.flatMap fun f => match m.get f with | some x => overflowOf (L.crField f) x | none => []

/-! Status views. -/

/-- The parsing of `decodeStatus` for a selector in range (R165); the echoed selector is not looked at. -/
def decodeView (L : Layout) (sel : BitVec 2) (w : Word) : StatusView :=
  let nibble := decodeNibble L (BitVec.ofNat 4 (get w L.stFstat))
  match sel with
  | 0#2 => .control (BitVec.ofNat 32 (get w L.stCtrl)) (get w L.stRev)
      (controlView L (BitVec.ofNat 32 (get w L.stCtrl)))
  | 1#2 => .clkFifo nibble (get w L.stFpos)
  | 2#2 => .clkbFifo nibble (get w L.stFpos)
  | _ => .clkhiFifo nibble (get w L.stFpos) (BitVec.ofNat 4 (get w L.stHinib)) (get w L.stPll == 1)

/-- `decodeStatus(selector, responseWord)` (R165, R167). -/
def decodeStatus (L : Layout) (selector : Nat) (w : Word) : Except ErrorKind StatusView :=
  if 3 < selector then .error (.unknownSelector selector) else .ok (decodeView L (BitVec.ofNat 2 selector) w)

/-! Events. -/

/-- The slot holds an event: its validity bit has the polarity's value (R211). -/
def slotValid (L : Layout) (s : Slot) : Bool := s.valid.toNat == L.evValidPolarity

/-- The event of a slot (R101, R216): time MSB and time LSB joined. -/
def slotEvent (tmsb : BitVec 4) (s : Slot) : Event := ⟨tmsb ++ s.tlsb, s.nadr, s.tbin, true⟩

/-- The events of a word's three slots in slot order, invalid slots left out (R216, R218). -/
def slotEvents (L : Layout) (tmsb : BitVec 4) (slots : List Slot) : List Event :=
  (slots.filter (slotValid L)).map (slotEvent tmsb)

/-- `unpackEvents(word)` (R216): an empty word has no events. -/
def unpackEvents (L : Layout) (w : Word) : List Event :=
  if get w Field.chipid = 15 then []
  else slotEvents L (BitVec.ofNat 4 (get w Field.evTmsb)) [slotOf w 0, slotOf w 1, slotOf w 2]

/-- The time MSB of a record: `absoluteTime[7:4]` (R101). -/
def recordMsb (e : EventRequest) : BitVec 4 := e.absoluteTime.extractLsb' 4 4

/-- The time LSB of a record: `absoluteTime[3:0]` (R101). -/
def recordLsb (e : EventRequest) : BitVec 4 := e.absoluteTime.extractLsb' 0 4

/-- The shared time MSB of the records: the first valid one's, 0 with none (R212, R214). -/
def sharedMsb (events : List EventRequest) : BitVec 4 :=
  match events.filter (·.valid) with
  | [] => 0#4
  | e :: _ => recordMsb e

/-- All valid records have the shared time MSB (R213 (b)). -/
def msbAgree (events : List EventRequest) : Bool :=
  events.all fun e => !e.valid || recordMsb e == sharedMsb events

/-- The inserts of slot `k`: all four fields for a valid record, the validity bit alone otherwise (R212, R214). -/
def recordFields (L : Layout) (k : Nat) : Option EventRequest → List (Field × Nat)
  | some e =>
    if e.valid then slotFields k L.evValidPolarity e.timeBin (recordLsb e).toNat e.neuronAddress
    else [(Field.evValid k, 1 - L.evValidPolarity)]
  | none => [(Field.evValid k, 1 - L.evValidPolarity)]

/-- The inserts of an event word (R212). -/
def eventFields (L : Layout) (chipId : Nat) (events : List EventRequest) : List (Field × Nat) :=
  [(Field.eventp, 1), (Field.chipid, chipId), (Field.evTmsb, (sharedMsb events).toNat)]
    ++ recordFields L 0 events[0]? ++ recordFields L 1 events[1]? ++ recordFields L 2 events[2]?

/-- The greedy grouping of `EV.COMPRESS` (R219): `g` is the group being filled. -/
def groupEvents (g : List EventRequest) : List EventRequest → List (List EventRequest)
  | [] => if g.isEmpty then [] else [g]
  | e :: es =>
    if !g.isEmpty && (g.length == 3 || recordMsb e != sharedMsb g) then g :: groupEvents [e] es
    else groupEvents (g ++ [e]) es

/-- The groups of `EV.COMPRESS`: invalid records are dropped first (R219). -/
def compressGroups (events : List EventRequest) : List (List EventRequest) :=
  groupEvents [] (events.filter (·.valid))

/-! Responses. -/

/-- What a response returns, by the kind of the read it answers (R107, R165, R186, R250, R254, R281); the ctrl/status
read is told apart by its caller, since it acts on the tracker. -/
def responseValue (L : Layout) (w : Word) : ReadKind → Value
  | .status sel => .status (decodeView L sel w)
  | .param _ => .triple ⟨get w L.prP1, get w L.prP2, get w L.prP3⟩
  | .synram .ctrl => .ctrl (get w L.scDone == 1) (get w L.scCmerr == 1)
  | .synram _ => .data (get w L.scData)
  | .misc _ => .raw (BitVec.ofNat 53 (get w Field.ci))

end Sys2Proof.Machine
end

