-- ==== Sys2Proof/Machine/Framer.lean ====
section
/-! DEFINITION. The packet framer's consumers (41_packet_framer) and the remaining commands (47_misc_commands): the
empty word, RSP's handling of a response, the error response, the five bare commands. -/

namespace Sys2Proof.Machine

/-- The tracker after a good ctrl/status response (R250, R262): `done` = 1 leaves `Processing`. -/
def Tracker.afterCtrl (t : Tracker) (done : Bool) : Tracker :=
  match t.row with
  | .processing _ => if done then { t with row := .idle } else t
  | _ => t

/-- The tracker after a read of `a` inside the verify batch `b` (R195, R196): compared as the caller gave it. -/
def Tracker.afterVerify (t : Tracker) (b : Batch) (a : Nat) (e d : Triple) : Tracker :=
  { t with batch := some { b with awaiting := none }, vfail := if d = e then t.vfail else t.vfail ++ [⟨a, e, d⟩] }

/-- The verify batch that awaits a response, with the entry it awaits (R196). -/
def Tracker.awaitingBatch (t : Tracker) : Option (Batch × Nat × Triple) :=
  t.batch.bind fun b => b.awaiting.map fun entry => (b, entry)

/-- RSP decodes the response `w` to a read of this kind, taken off `PENDING` already (R107, R150, R250, R254, R281);
`t` is the tracker of the chip. -/
def finishRead (k : ChipId) (kind : ReadKind) (w : Word) (t : Tracker) (s : State) : State :=
  match kind with
  | .synram .ctrl =>
    if get w s.layout.scCmerr = 1 then
      (s.setTracker (reqOf k) { t with poison := true }).raise (some k.val) .commandDecodeError
    else
      (s.setTracker (reqOf k) (t.afterCtrl (get w s.layout.scDone == 1))).report (some k.val)
        (.ok (responseValue s.layout w kind))
  | .param _ =>
    match t.awaitingBatch with
    | some (b, a, e) =>
      s.setTracker (reqOf k)
        (t.afterVerify b a e ⟨get w s.layout.prP1, get w s.layout.prP2, get w s.layout.prP3⟩)
    | none => (s.setTracker (reqOf k) t).report (some k.val) (.ok (responseValue s.layout w kind))
  | _ => (s.setTracker (reqOf k) t).report (some k.val) (.ok (responseValue s.layout w kind))

/-- The error of a response with the error flag: the command with its flag cleared, and the raw data field (R282). -/
def responseError (w : Word) : ErrorKind :=
  .deviceErrorFlag (get w Field.cmd - get w Field.cmd % 2) (BitVec.ofNat 53 (get w Field.ci))

/-- How a read of this kind ends with the response `w`, for the caller that waits for it: the error flag is looked at
before the read's kind (R150, R250, R254, R281, R282). -/
def readResult (L : Layout) (kind : ReadKind) (w : Word) : Result :=
  if get w Field.cmd % 2 = 1 then .error (responseError w)
  else
    match kind with
    | .synram .ctrl => if get w L.scCmerr = 1 then .error .commandDecodeError else .ok (responseValue L w kind)
    | _ => .ok (responseValue L w kind)

/-- RSP finds the error flag in the response to a read of this kind (R282): the read ends with the error, no data is
decoded; a verify batch that awaited it ends (R196). -/
def failRead (k : ChipId) (kind : ReadKind) (w : Word) (t : Tracker) (s : State) : State :=
  match kind, t.awaitingBatch with
  | .param _, some (b, _) =>
    (s.setTracker (reqOf k) { t with batch := some { b with awaiting := none, failed := true } }).raise (some k.val)
      (responseError w)
  | _, _ => (s.setTracker (reqOf k) t).raise (some k.val) (responseError w)

/-- RSP's step on a command word `w` from chip `k` (R150): it pairs with the oldest pending read of that chip and ends
it, so that the caller waiting for it goes on. -/
def acceptResponse (k : ChipId) (w : Word) (s : State) : Host.Outcome State Fault Refusal :=
  match (s.tracker (reqOf k)).pending with
  | [] => .refused .unexpectedResponse
  | kind :: _ =>
    let answered := (s.tracker (reqOf k)).answer (readResult s.layout kind w)
    if get w Field.cmd % 2 = 1 then .next (failRead k kind w answered s)
    else .next (finishRead k kind w answered s)

/-- A bare command (R275, R281): the device gives it no meaning; RSP returns its raw data field to the caller. -/
def bareCommand (k : ChipId) (w : Word) (s : State) : Host.Outcome State Fault Refusal :=
  match s.side with
  | .device => onDevice k s fun _ => .refused .unmodelled
  | .requester => acceptResponse k w s

/-- `EMPTY` (R111, R145): consumed with no effect of any kind. -/
def execEmpty (s : State) : Host.Outcome State Fault Refusal := .next s

/-- `ERROR.RESP` (R282). -/
def execErrorResp (chip : ChipId) (rwb : BitVec 1) (cmd : BitVec 4) (ci : BitVec 53) (s : State) :
    Host.Outcome State Fault Refusal :=
  acceptResponse chip (encode s.layout (.errorResp chip rwb cmd ci)) s

/-- `SYNC` (R275, R276, R281). -/
def execSync (chip : ChipId) (rwb : BitVec 1) (ci : BitVec 53) (s : State) : Host.Outcome State Fault Refusal :=
  bareCommand chip (encode s.layout (.sync chip rwb ci)) s

/-- `LOOPBACK` (R275, R277, R281). -/
def execLoopback (chip : ChipId) (rwb : BitVec 1) (ci : BitVec 53) (s : State) : Host.Outcome State Fault Refusal :=
  bareCommand chip (encode s.layout (.loopback chip rwb ci)) s

/-- `AREADOUT` (R275, R278, R281). -/
def execAreadout (chip : ChipId) (rwb : BitVec 1) (ci : BitVec 53) (s : State) : Host.Outcome State Fault Refusal :=
  bareCommand chip (encode s.layout (.areadout chip rwb ci)) s

/-- `EVLOOPBACK` (R275, R279, R281). -/
def execEvloopback (chip : ChipId) (rwb : BitVec 1) (ci : BitVec 53) (s : State) :
    Host.Outcome State Fault Refusal :=
  bareCommand chip (encode s.layout (.evloopback chip rwb ci)) s

/-- `DUMMYCMD` (R275, R280, R281). -/
def execDummycmd (chip : ChipId) (rwb : BitVec 1) (ci : BitVec 53) (s : State) : Host.Outcome State Fault Refusal :=
  bareCommand chip (encode s.layout (.dummycmd chip rwb ci)) s

end Sys2Proof.Machine
end

