-- ==== Sys2Proof/Machine/ControlStatus.lean ====
section
/-! DEFINITION. The control register and the status views at the device, and the responses (42_control_status). -/

namespace Sys2Proof.Machine

/-- `CTRL.WRITE` (R158): the masked write, one atomic step, no response. -/
def execCtrlWrite (chip : ChipId) (val : BitVec 32) (fmask : BitVec 8) (s : State) :
    Host.Outcome State Fault Refusal :=
  onDevice chip s fun c => .next (s.setChip chip { c with cr := maskedWrite s.layout c.cr val fmask })

/-- `STATUS.READ.0` (R160, R161): answered with `CR` and `REVISION`. -/
def execStatusRead0 (chip : ChipId) (s : State) : Host.Outcome State Fault Refusal :=
  onDevice chip s fun c => .next (s.respond (encode s.layout (.statusResp0 chip c.cr c.revision)))

/-- `STATUS.READ.1` (R160, R162): the clk fifo's inputs, sampled at this step. -/
def execStatusRead1 (chip : ChipId) (s : State) : Host.Outcome State Fault Refusal :=
  onDevice chip s fun _ =>
    .next ((s.took 2).respond
      (encode s.layout (.statusResp1 chip (s.drawAt 0 4) (s.drawAt 1 s.layout.fposW).toNat)))

/-- `STATUS.READ.2` (R160, R163): the clkb fifo's inputs, sampled at this step. -/
def execStatusRead2 (chip : ChipId) (s : State) : Host.Outcome State Fault Refusal :=
  onDevice chip s fun _ =>
    .next ((s.took 2).respond
      (encode s.layout (.statusResp2 chip (s.drawAt 0 4) (s.drawAt 1 s.layout.fposW).toNat)))

/-- `STATUS.READ.3` (R160, R164): the clkhi fifo's inputs, the high nibble and the PLL lock, sampled at this step. -/
def execStatusRead3 (chip : ChipId) (s : State) : Host.Outcome State Fault Refusal :=
  onDevice chip s fun _ =>
    .next ((s.took 4).respond
      (encode s.layout (.statusResp3 chip (s.drawAt 0 4) (s.drawAt 1 s.layout.fposW).toNat (s.drawAt 2 4)
        (s.drawAt 3 1))))

/-- `STATUS.RESP.0` (R165) at RSP. -/
def execStatusResp0 (chip : ChipId) (ctrl : BitVec 32) (rev : Nat) (s : State) : Host.Outcome State Fault Refusal :=
  acceptResponse chip (encode s.layout (.statusResp0 chip ctrl rev)) s

/-- `STATUS.RESP.1` (R165) at RSP. -/
def execStatusResp1 (chip : ChipId) (fstat : BitVec 4) (fpos : Nat) (s : State) :
    Host.Outcome State Fault Refusal :=
  acceptResponse chip (encode s.layout (.statusResp1 chip fstat fpos)) s

/-- `STATUS.RESP.2` (R165) at RSP. -/
def execStatusResp2 (chip : ChipId) (fstat : BitVec 4) (fpos : Nat) (s : State) :
    Host.Outcome State Fault Refusal :=
  acceptResponse chip (encode s.layout (.statusResp2 chip fstat fpos)) s

/-- `STATUS.RESP.3` (R165) at RSP. -/
def execStatusResp3 (chip : ChipId) (fstat : BitVec 4) (fpos : Nat) (hinib : BitVec 4) (pll : BitVec 1)
    (s : State) : Host.Outcome State Fault Refusal :=
  acceptResponse chip (encode s.layout (.statusResp3 chip fstat fpos hinib pll)) s

end Sys2Proof.Machine
end

