-- ==== Sys2Proof/Machine/DelayLine.lean ====
section
/-! DEFINITION. The delay-line controller at the device (45_delay_line). -/

namespace Sys2Proof.Machine

/-- `DL.SET` (R235): one of the 36 entries takes the value; an address from 36 on names no line (R117). -/
def execDlSet (chip : ChipId) (adr : Nat) (val : BitVec 3) (s : State) : Host.Outcome State Fault Refusal :=
  onDevice chip s fun c =>
    if adr < 36 then .next (s.setChip chip { c with dl := c.dl.write adr val })
    else .refused .undefinedEncoding

end Sys2Proof.Machine
end

