-- ==== Sys2Proof/Machine/Events.lean ====
section
/-! DEFINITION. The event codec at the consumers of an event word (44_event_codec R216, R222). -/

namespace Sys2Proof.Machine

/-- `EVENT` (R216): the valid slots' events are delivered in slot order, on the device's `ev_out` or on the
requester's side, and nothing else changes. -/
def execEvent (chip : ChipId) (tmsb : BitVec 4) (s0 s1 s2 : Slot) (s : State) :
    Host.Outcome State Fault Refusal :=
  match s.side with
  | .device =>
    onDevice chip s fun c =>
      .next (s.setChip chip { c with evOut := c.evOut ++ slotEvents s.layout tmsb [s0, s1, s2] })
  | .requester =>
    .next { s with
      evDelivered := s.evDelivered ++ (slotEvents s.layout tmsb [s0, s1, s2]).map fun e => (chip, e) }

end Sys2Proof.Machine
end

