-- ==== Sys2Proof/Machine/ParamRam.lean ====
section
/-! DEFINITION. Parameter-RAM transactions at the device and their response (43_param_ram). -/

namespace Sys2Proof.Machine

/-- `PR.WRITE` (R185): all three parameters of one entry at once; an address that names no entry is refused (R190). -/
def execPrWrite (chip : ChipId) (adr p1 p2 p3 : Nat) (s : State) : Host.Outcome State Fault Refusal :=
  onDevice chip s fun c =>
    if paramAddressOk s.layout adr then .next (s.setChip chip { c with pram := c.pram.write adr ⟨p1, p2, p3⟩ })
    else .refused .undefinedEncoding

/-- `PR.READ` (R187): answered with the entry and its address; an entry never written is a free value (R188). -/
def execPrRead (chip : ChipId) (adr : Nat) (s : State) : Host.Outcome State Fault Refusal :=
  onDevice chip s fun c =>
    if paramAddressOk s.layout adr then
      .next ((readTriple s c.pram adr).2.respond
        (encode s.layout (.prReadResp chip adr (readTriple s c.pram adr).1.p1 (readTriple s c.pram adr).1.p2
          (readTriple s c.pram adr).1.p3)))
    else .refused .undefinedEncoding

/-- `PR.READ.RESP` (R186, R187) at RSP. -/
def execPrReadResp (chip : ChipId) (adr p1 p2 p3 : Nat) (s : State) : Host.Outcome State Fault Refusal :=
  acceptResponse chip (encode s.layout (.prReadResp chip adr p1 p2 p3)) s

/-- `PR.PERIOD` (R191). -/
def execPrPeriod (chip : ChipId) (period : Nat) (s : State) : Host.Outcome State Fault Refusal :=
  onDevice chip s fun c => .next (s.setChip chip { c with period := c.period.write period })

/-- `PR.LUT` (R192): all four fields of one entry at once; an index beyond the table is refused (R117). -/
def execPrLut (chip : ChipId) (idx time boost rep step : Nat) (s : State) : Host.Outcome State Fault Refusal :=
  onDevice chip s fun c =>
    if idx < s.layout.lutN then .next (s.setChip chip { c with lut := c.lut.write idx ⟨time, boost, rep, step⟩ })
    else .refused .undefinedEncoding

/-- `PR.COUNT` (R193): stored as given, also above `PR_TOTAL` (U7). -/
def execPrCount (chip : ChipId) (count : Nat) (s : State) : Host.Outcome State Fault Refusal :=
  onDevice chip s fun c => .next (s.setChip chip { c with pcount := c.pcount.write count })

end Sys2Proof.Machine
end

