-- ==== Sys2Proof/Machine/SynapseControl.lean ====
section
/-! DEFINITION. Synapse-control commands at the device, their response, and the completion step (46_synapse_control). -/

namespace Sys2Proof.Machine

/-- A row-bound word has a meaning only while no pass is in progress (R249). -/
def whileIdle (c : Chip) (o : Host.Outcome State Fault Refusal) : Host.Outcome State Fault Refusal :=
  if c.busy then .refused .unspecifiedTransition else o

/-- A word that addresses an element of the synapse memories: refused while busy, and beyond the arrays (R117, R249,
R252). -/
def onElement (L : Layout) (c : Chip) (row col : Nat) (o : Host.Outcome State Fault Refusal) :
    Host.Outcome State Fault Refusal :=
  whileIdle c (if synapseAddressOk L row col then o else .refused .undefinedEncoding)

/-- The answer to a read of a synapse-control register or memory (R254): sub-command and address echoed, an
address field the sub-command does not use as 0 (notes/assumptions/33); `d` is the data read and the state after reading
it. -/
def scAnswer (chip : ChipId) (sub : BitVec 3) (row col : Nat) (d : Nat × State) : State :=
  d.2.respond (encode d.2.layout (.scResp chip sub row col d.1))

/-- `SC.CTRL.R` (R250): answered with `DONE` and `CMERR`; clears neither. R250 builds the answer with row and column 0. -/
def execScCtrlR (chip : ChipId) (s : State) : Host.Outcome State Fault Refusal :=
  onDevice chip s fun c => .next (scAnswer chip 0#3 0 0 (c.ctrlData s.layout, s))

/-- `SC.TIME.W` (R251). -/
def execScTimeW (chip : ChipId) (data : Nat) (s : State) : Host.Outcome State Fault Refusal :=
  onDevice chip s fun c => .next (s.setChip chip { c with sctime := c.sctime.write data })

/-- `SC.TIME.R` (R251): a free value before the first write (R332). Row and column of the answer are 0, the model's choice
for a foreign word with others (notes/assumptions/33). -/
def execScTimeR (chip : ChipId) (s : State) : Host.Outcome State Fault Refusal :=
  onDevice chip s fun c => .next (scAnswer chip 1#3 0 0 (readReg s c.sctime s.layout.scData.width))

/-- `SC.PLUT.W` (R252). -/
def execScPlutW (chip : ChipId) (row col data : Nat) (s : State) : Host.Outcome State Fault Refusal :=
  onDevice chip s fun c =>
    onElement s.layout c row col
      (.next (s.setChip chip { c with plut := c.plut.write (synapseIndex s.layout row col) data }))

/-- `SC.PLUT.R` (R252). -/
def execScPlutR (chip : ChipId) (row col : Nat) (s : State) : Host.Outcome State Fault Refusal :=
  onDevice chip s fun c =>
    onElement s.layout c row col
      (.next (scAnswer chip 2#3 row col (readData s c.plut (synapseIndex s.layout row col))))

/-- `SC.SYN.W` (R253). -/
def execScSynW (chip : ChipId) (row col data : Nat) (s : State) : Host.Outcome State Fault Refusal :=
  onDevice chip s fun c =>
    onElement s.layout c row col
      (.next (s.setChip chip { c with syn := c.syn.write (synapseIndex s.layout row col) data }))

/-- `SC.SYN.R` (R253): a free value where nothing was written since reset or since the last pass. -/
def execScSynR (chip : ChipId) (row col : Nat) (s : State) : Host.Outcome State Fault Refusal :=
  onDevice chip s fun c =>
    onElement s.layout c row col
      (.next (scAnswer chip 3#3 row col (readData s c.syn (synapseIndex s.layout row col))))

/-- `SC.CLOSE` (R256): the device keeps no row state, so no modelled state changes (R247). -/
def execScClose (chip : ChipId) (s : State) : Host.Outcome State Fault Refusal :=
  onDevice chip s fun c => whileIdle c (.next s)

/-- `SC.COR_READ` (R258): answered with the correlation data, an input sampled at this step (R45), and the column. The
row of the answer is 0, the model's choice for a foreign word with another (notes/assumptions/33). -/
def execScCorRead (chip : ChipId) (col : Nat) (s : State) : Host.Outcome State Fault Refusal :=
  onDevice chip s fun _ =>
    if col < s.layout.scCols then
      .next (scAnswer chip 5#3 0 col ((s.drawAt 0 s.layout.scData.width).toNat, s.took 1))
    else .refused .undefinedEncoding

/-- `SC.PCOR` (R259). -/
def execScPcor (chip : ChipId) (s : State) : Host.Outcome State Fault Refusal :=
  onDevice chip s fun c => whileIdle c (.next (s.setChip chip c.startPass))

/-- `SC.PCORC` (R260): the same state changes as `SC.PCOR`. -/
def execScPcorc (chip : ChipId) (s : State) : Host.Outcome State Fault Refusal :=
  onDevice chip s fun c => whileIdle c (.next (s.setChip chip c.startPass))

/-- `SC.RESP` (R250, R254) at RSP. -/
def execScResp (chip : ChipId) (sub : BitVec 3) (row col data : Nat) (s : State) :
    Host.Outcome State Fault Refusal :=
  acceptResponse chip (encode s.layout (.scResp chip sub row col data)) s

/-- The completion step of COR (R263): enabled exactly when `BUSY` = 1. -/
def completionStep (chip : ChipId) (s : State) : State :=
  if (s.chip chip).busy then s.setChip chip (s.chip chip).completePass else s

end Sys2Proof.Machine
end

