-- ==== Sys2Proof/Machine/Dispatch.lean ====
section
/-! DEFINITION. exec: one arm per row of the opcode table, the meaning of a word at the agent that consumed it. -/

namespace Sys2Proof.Machine

def exec (i : Instr) (s : State) : Host.Outcome State Fault Refusal :=
  match i with
  | .empty => Sys2Proof.Machine.execEmpty s
  | .dlSet chip adr val => Sys2Proof.Machine.execDlSet chip adr val s
  | .event chip tmsb s0 s1 s2 => Sys2Proof.Machine.execEvent chip tmsb s0 s1 s2 s
  | .errorResp chip rwb cmd ci => Sys2Proof.Machine.execErrorResp chip rwb cmd ci s
  | .sync chip rwb ci => Sys2Proof.Machine.execSync chip rwb ci s
  | .loopback chip rwb ci => Sys2Proof.Machine.execLoopback chip rwb ci s
  | .prWrite chip adr p1 p2 p3 => Sys2Proof.Machine.execPrWrite chip adr p1 p2 p3 s
  | .prRead chip adr => Sys2Proof.Machine.execPrRead chip adr s
  | .prReadResp chip adr p1 p2 p3 => Sys2Proof.Machine.execPrReadResp chip adr p1 p2 p3 s
  | .prPeriod chip period => Sys2Proof.Machine.execPrPeriod chip period s
  | .prLut chip idx time boost rep step => Sys2Proof.Machine.execPrLut chip idx time boost rep step s
  | .prCount chip count => Sys2Proof.Machine.execPrCount chip count s
  | .ctrlWrite chip val fmask => Sys2Proof.Machine.execCtrlWrite chip val fmask s
  | .statusRead0 chip => Sys2Proof.Machine.execStatusRead0 chip s
  | .statusRead1 chip => Sys2Proof.Machine.execStatusRead1 chip s
  | .statusRead2 chip => Sys2Proof.Machine.execStatusRead2 chip s
  | .statusRead3 chip => Sys2Proof.Machine.execStatusRead3 chip s
  | .statusResp0 chip ctrl rev => Sys2Proof.Machine.execStatusResp0 chip ctrl rev s
  | .statusResp1 chip fstat fpos => Sys2Proof.Machine.execStatusResp1 chip fstat fpos s
  | .statusResp2 chip fstat fpos => Sys2Proof.Machine.execStatusResp2 chip fstat fpos s
  | .statusResp3 chip fstat fpos hinib pll => Sys2Proof.Machine.execStatusResp3 chip fstat fpos hinib pll s
  | .scCtrlR chip => Sys2Proof.Machine.execScCtrlR chip s
  | .scTimeW chip data => Sys2Proof.Machine.execScTimeW chip data s
  | .scTimeR chip => Sys2Proof.Machine.execScTimeR chip s
  | .scPlutW chip row col data => Sys2Proof.Machine.execScPlutW chip row col data s
  | .scPlutR chip row col => Sys2Proof.Machine.execScPlutR chip row col s
  | .scSynW chip row col data => Sys2Proof.Machine.execScSynW chip row col data s
  | .scSynR chip row col => Sys2Proof.Machine.execScSynR chip row col s
  | .scClose chip => Sys2Proof.Machine.execScClose chip s
  | .scCorRead chip col => Sys2Proof.Machine.execScCorRead chip col s
  | .scPcor chip => Sys2Proof.Machine.execScPcor chip s
  | .scPcorc chip => Sys2Proof.Machine.execScPcorc chip s
  | .scResp chip sub row col data => Sys2Proof.Machine.execScResp chip sub row col data s
  | .areadout chip rwb ci => Sys2Proof.Machine.execAreadout chip rwb ci s
  | .evloopback chip rwb ci => Sys2Proof.Machine.execEvloopback chip rwb ci s
  | .dummycmd chip rwb ci => Sys2Proof.Machine.execDummycmd chip rwb ci s

end Sys2Proof.Machine
end

