-- ==== Sys2Proof/Machine/Requests.lean ====
section
/-! DEFINITION. The encode face: what REQ does with a request of the caller (41_packet_framer R149, 30_encoding R120,
R123, 60_exceptions R309), the row state machine (46_synapse_control R261), the pseudo-operations (R122), and the
actions of ENV. -/

namespace Sys2Proof

/-- The chip id a request names when it builds a packet (R120); none for the requests that build none. -/
def Request.target : Request → Option Nat
  | .extract _ _ _ => none
  | .insert _ _ _ _ => none
  | .classify _ => none
  | .classifyCommand _ => none
  | .build c _ _ => some c
  | .buildCommand c _ _ _ => some c
  | .buildControlWrite c _ => some c
  | .buildStatusRead c _ => some c
  | .decodeStatus _ _ => none
  | .writeParam c _ _ _ _ => some c
  | .readParam c _ => some c
  | .writePeriod c _ => some c
  | .writeLookupEntry c _ _ _ _ _ => some c
  | .writeParamCount c _ => some c
  | .packEvents c _ => some c
  | .unpackEvents _ => none
  | .setDelay _ _ c => some c
  | .synapse c _ _ _ _ => some c
  | .misc c _ _ _ => some c

end Sys2Proof

namespace Sys2Proof.Machine

/-- The chip id of a packet request is validated, 0..15 (R142); otherwise the request raises `InvalidChipId`. -/
def withChipId (chipId : Nat) (s : State) (f : ReqId → Host.Outcome State Fault Refusal) :
    Host.Outcome State Fault Refusal :=
  if h : chipId < 16 then f ⟨chipId, h⟩ else .next (s.raise (some chipId) (.invalidChipId chipId))

/-- Steps 2 to 5 of R149 for chip id `r`: the mode the request needs, one transaction in flight (R343), the word built
with its truncations logged, sent; a read is pushed on `PENDING`, anything else completes now. `update` is the
family's change of the tracker at issue. R309 and R149 put the operand checks first and R343 does not say where its own
test stands: here a request that fails a check, or finds another row open, raises its error though a read is in flight
for its chip, and only a request that would be sent is refused (notes/assumptions/10). -/
def issue (r : ReqId) (address : Bool) (fields : List (Field × Nat)) (read : Option ReadKind)
    (update : Tracker → Tracker) (s : State) : Host.Outcome State Fault Refusal :=
  if s.addrMode ≠ address then .refused .modeViolation
  else if (s.tracker r).pending ≠ [] then .refused .concurrentIssue
  else
    let t := update (s.tracker r)
    let sent := (s.logOverflows (overflows fields)).send (assemble fields)
    match read with
    | some kind => .next (sent.setTracker r (t.push kind))
    | none => .next ((sent.setTracker r t).report (some r.val) (.ok (.sent (assemble fields))))

/-! Parameter RAM, control, delay line, misc. -/

/-- `PRFSM` after a control write that names `pram_en` (R200). -/
def Tracker.afterControl (m : ControlMap) (t : Tracker) : Tracker :=
  match m.pramEn with
  | some v => { t with prfsm := if v % 2 = 1 then .enabled else .disabled }
  | none => t

/-- `buildControlWrite` (R157). -/
def requestControlWrite (chipId : Nat) (m : ControlMap) (s : State) : Host.Outcome State Fault Refusal :=
  withChipId chipId s fun r =>
    issue r false
      (ctrlWriteFields s.layout chipId (controlValue s.layout m).toNat (controlMask m).toNat) none
      (Tracker.afterControl m) (s.logOverflows (controlOverflows s.layout m))

/-- `buildStatusRead` (R160). -/
def requestStatusRead (chipId selector : Nat) (s : State) : Host.Outcome State Fault Refusal :=
  withChipId chipId s fun r =>
    if 3 < selector then .next (s.raise (some chipId) (.unknownSelector selector))
    else issue r false (statusReadFields s.layout chipId selector) (some (.status (BitVec.ofNat 2 selector))) id s

/-- `writeParam` (R184). -/
def requestWriteParam (chipId address p1 p2 p3 : Nat) (s : State) : Host.Outcome State Fault Refusal :=
  withChipId chipId s fun r =>
    if paramAddressOk s.layout address then
      issue r false (prEntryFields s.layout chipId 0 address p1 p2 p3) none id s
    else .next (s.raise (some chipId) (.addressOutOfRange address))

/-- `readParam` (R186). -/
def requestReadParam (chipId address : Nat) (s : State) : Host.Outcome State Fault Refusal :=
  withChipId chipId s fun r =>
    if paramAddressOk s.layout address then
      issue r false (prReadFields s.layout chipId address) (some (.param address)) id s
    else .next (s.raise (some chipId) (.addressOutOfRange address))

/-- `writePeriod` (R191). -/
def requestWritePeriod (chipId cycles : Nat) (s : State) : Host.Outcome State Fault Refusal :=
  withChipId chipId s fun r => issue r false (prPeriodFields s.layout chipId cycles) none id s

/-- `writeLookupEntry` (R192). -/
def requestWriteLookup (chipId index time boost rep step : Nat) (s : State) : Host.Outcome State Fault Refusal :=
  withChipId chipId s fun r => issue r false (prLutFields s.layout chipId index time boost rep step) none id s

/-- `writeParamCount` (R193). -/
def requestWriteCount (chipId n : Nat) (s : State) : Host.Outcome State Fault Refusal :=
  withChipId chipId s fun r => issue r false (prCountFields s.layout chipId n) none id s

/-- `packEvents` issued as a request (R212, R213). -/
def requestPackEvents (chipId : Nat) (events : List EventRequest) (s : State) : Host.Outcome State Fault Refusal :=
  withChipId chipId s fun r =>
    if 3 < events.length then .refused .tooManyEvents
    else if msbAgree events then issue r false (eventFields s.layout chipId events) none id s
    else .refused .timeMsbMismatch

/-- `setDelay` (R234): the three checks in the order the source names the errors (R309). -/
def requestSetDelay (lineAddress value chipId : Nat) (s : State) : Host.Outcome State Fault Refusal :=
  if 36 ≤ lineAddress then .next (s.raise (some chipId) (.invalidAddress lineAddress))
  else if 8 ≤ value then .next (s.raise (some chipId) (.valueOverflow value))
  else withChipId chipId s fun r => issue r true (delayFields s.layout chipId lineAddress value) none id s

/-- `miscRequest` (R276 to R280). -/
def requestMisc (chipId : Nat) (cmd : MiscCmd) (rwb : Bool) (ci : Nat) (s : State) :
    Host.Outcome State Fault Refusal :=
  withChipId chipId s fun r =>
    issue r false (rawCommandFields chipId rwb.toNat (cmd.code s.layout) ci)
      (if rwb then some (.misc cmd) else none) id s

/-! Synapse control and the row state machine. -/

/-- An operation's row, column and data: those it does not use are 0 (R97, R246), whatever the caller gave for them, and
so log no truncation: R248 logs where a value changed, and R123 names no operand that is not used
(notes/assumptions/31). -/
def scOperands (op : ScOp) (row col data : Nat) : Nat × Nat × Nat :=
  match op with
  | .plutW => (row, col, data)
  | .synW => (row, col, data)
  | .plutR => (row, col, 0)
  | .synR => (row, col, 0)
  | .corRead => (0, col, 0)
  | .timeW => (0, 0, data)
  | .ctrlR => (0, 0, 0)
  | .timeR => (0, 0, 0)
  | .close => (0, 0, 0)
  | .pcor => (0, 0, 0)
  | .pcorc => (0, 0, 0)

/-- An entry of the transition table (R261). -/
inductive RowEntry where
  | to (next : RowState)
  | conflict (openRow : Nat)
  | undrawn
  deriving DecidableEq, Repr

/-- The transition table of `ROW` at the issue of a request with truncated row `r` (R255 to R261). -/
def rowTable (sub : ScSub) (r : Nat) (row : RowState) : RowEntry :=
  match sub, row with
  | .syn, .idle => .to (.rowOpen r)
  | .plut, .idle => .to (.rowOpen r)
  | .syn, .rowOpen r' => if r = r' then .to (.rowOpen r') else .conflict r'
  | .plut, .rowOpen r' => if r = r' then .to (.rowOpen r') else .conflict r'
  | .close, .rowOpen _ => .to .idle
  | .pcor, .rowOpen r' => .to (.processing r')
  | .pcorc, .rowOpen r' => .to (.processing r')
  | .ctrl, row => .to row
  | .time, row => .to row
  | .corRead, row => .to row
  | _, _ => .undrawn

/-- The common procedure of every synapse-control request (R248). -/
def requestSynapse (chipId : Nat) (op : ScOp) (row col data : Nat) (s : State) :
    Host.Outcome State Fault Refusal :=
  withChipId chipId s fun r =>
    let L := s.layout
    let (row, col, data) := scOperands op row col data
    let logged := s.logOverflows (overflows [(L.scRow, row), (L.scCol, col), (L.scData, data)])
    if (s.tracker r).poison then .refused .poisoned
    else
      match rowTable op.sub (row % 2 ^ L.scRow.width) (s.tracker r).row with
      | .conflict openRow => .next (logged.raise (some chipId) (.rowConflict openRow (row % 2 ^ L.scRow.width)))
      | .undrawn => .refused .unspecifiedTransition
      | .to next =>
        issue r false
          (scFields L chipId op.isRead.toNat op.sub.code (row % 2 ^ L.scRow.width) (col % 2 ^ L.scCol.width)
            (data % 2 ^ L.scData.width))
          (if op.isRead then some (.synram op.sub) else none) (fun t => { t with row := next }) logged

/-! The request interface. -/

/-- A codec operation ends `ok` with its value and its log entries, or in its error (R16). -/
def finishCodec {α : Type} (chipId : Option Nat) (s : State) (value : α → Value) :
    Except ErrorKind (α × List Overflow) → Host.Outcome State Fault Refusal
  | .ok (a, os) => .next ((s.logOverflows os).report chipId (.ok (value a)))
  | .error e => .next (s.raise chipId e)

/-- `buildCommand` (R146) as a request: `InvalidChipId` from `build`, then truncation; nothing is sent. -/
def buildCommand (chipId rwb cmd ci : Nat) : Except ErrorKind (Word × List Overflow) :=
  if 15 < chipId then .error (.invalidChipId chipId)
  else .ok (assemble (rawCommandFields chipId rwb cmd ci), overflows (rawCommandFields chipId rwb cmd ci))

/-- REQ's step on one request (R149, R309). -/
def runRequest (r : Request) (s : State) : Host.Outcome State Fault Refusal :=
  match r with
  | .extract w pos width => finishCodec none s .number ((codecExtract w pos width).map fun n => (n, []))
  | .insert w pos width value => finishCodec none s .word (codecInsert w pos width value)
  | .classify w =>
    .next (s.report none (.ok (.packet (classify w).chipId (classify w).isEvent (classify w).payload)))
  | .classifyCommand p =>
    .next (s.report none (.ok (.command (classifyCommand p).rwb (classifyCommand p).cmd (classifyCommand p).err
      (classifyCommand p).ci)))
  | .build chipId isEvent payload => finishCodec (some chipId) s .word (build chipId isEvent payload)
  | .buildCommand chipId rwb cmd ci => finishCodec (some chipId) s .word (buildCommand chipId rwb cmd ci)
  | .buildControlWrite chipId m => requestControlWrite chipId m s
  | .buildStatusRead chipId selector => requestStatusRead chipId selector s
  | .decodeStatus selector w =>
    finishCodec none s .status ((decodeStatus s.layout selector w).map fun v => (v, []))
  | .writeParam chipId a p1 p2 p3 => requestWriteParam chipId a p1 p2 p3 s
  | .readParam chipId a => requestReadParam chipId a s
  | .writePeriod chipId cycles => requestWritePeriod chipId cycles s
  | .writeLookupEntry chipId index time boost rep step => requestWriteLookup chipId index time boost rep step s
  | .writeParamCount chipId n => requestWriteCount chipId n s
  | .packEvents chipId events => requestPackEvents chipId events s
  | .unpackEvents w => .next (s.report none (.ok (.events (unpackEvents s.layout w))))
  | .setDelay lineAddress value chipId => requestSetDelay lineAddress value chipId s
  | .synapse chipId op row col data => requestSynapse chipId op row col data s
  | .misc chipId cmd rwb ci => requestMisc chipId cmd rwb ci s

/-! The environment. -/

/-- No read is in flight for a chip on the link (R239): one sent to an id without an instance does not count. -/
def State.noneInFlight (s : State) : Bool :=
  (List.finRange 15).all fun k => !(s.chip k).present || (s.tracker (reqOf k)).pending.isEmpty

/-- ENV's step (R17, R307). The pin may change only over a drained link; R239 refuses any other change (R304, R348). -/
def runEnv (a : EnvAction) (s : State) : Host.Outcome State Fault Refusal :=
  match a with
  | .addrMode x =>
    if s.toDevice.isEmpty && s.noneInFlight then .next { s with addrMode := x } else .refused .modeViolation
  | .setCmerr chip => .next (s.setChip chip (s.chip chip).setCmerr)
  | .reset => .next s.resetStep
  | .restartEncodeFace => .next s.restartEncodeFace
  | .foreignRequest w => .next { s with toDevice := s.toDevice ++ [w] }
  | .foreignResponse w => .next { s with toRequester := s.toRequester ++ [w] }
  | .flipRequest bit =>
    .next { s with toDevice := s.toDevice.modifyHead fun w => w ^^^ BitVec.twoPow 64 bit.val }
  | .flipResponse bit =>
    .next { s with toRequester := s.toRequester.modifyHead fun w => w ^^^ BitVec.twoPow 64 bit.val }

/-! The callers (R150, R305): what a caller waits for, and a request as a blocking call. -/

/-- The caller waits with this action at the head of its script (R305): for the answer to its read, or for its verify
batch's own read. Where a reset has taken that read there is never an answer (R334; notes/assumptions/29). -/
def State.waits (s : State) (caller : Nat) (a : Action) : Bool :=
  match a with
  | .await r read => ((s.tracker r).answerTo read).isNone
  | .pollTest r read => ((s.tracker r).answerTo read).isNone
  | .verifyNext r =>
    match (s.tracker r).batch with
    | none => true
    | some b => b.caller != caller || b.awaiting.isSome
  | .request _ => false
  | .paramIdle _ => false
  | .verify _ _ => false
  | .writeAll _ _ => false
  | .compress _ _ => false
  | .delaySequence _ => false
  | .poll _ => false
  | .env _ => false

/-- The read, with its number, that a request for chip id `chipId` has sent between the two states, if any. -/
def readSent (chipId : Option Nat) (s t : State) : Option (ReqId × Nat) :=
  match chipId with
  | none => none
  | some c =>
    if h : c < 16 then
      if (s.tracker ⟨c, h⟩).readsSent < (t.tracker ⟨c, h⟩).readsSent then some (⟨c, h⟩, (s.tracker ⟨c, h⟩).readsSent)
      else none
    else none

/-- A request as a blocking call (R150, R186, R248, R305): where it has sent a read, the caller goes on with `rest`, which
waits for the answer; a request that sends no read, or ends in an error, is over. -/
def call (caller : Nat) (r : Request) (rest : ReqId → Nat → Action) (s : State) : Host.Outcome State Fault Refusal :=
  match runRequest r s with
  | .next t =>
    match readSent r.target s t with
    | some (c, read) => .next (t.expand caller [rest c read])
    | none => .next t
  | .fault f => .fault f
  | .refused e => .refused e

/-! Pseudo-operations (R122): each puts its expansion at the head of its caller's script. In this part `s` is the state
without the action that is run. -/

/-- A verify batch begins with `VFAIL` empty (R196); a second batch for the chip meanwhile has no meaning (R83). -/
def startVerify (caller chipId : Nat) (entries : List (Nat × Triple)) (s : State) :
    Host.Outcome State Fault Refusal :=
  if h : chipId < 16 then
    let r : ReqId := ⟨chipId, h⟩
    match (s.tracker r).batch with
    | some _ => .refused .concurrentIssue
    | none =>
      .next ((s.setTracker r { s.tracker r with vfail := [], batch := some ⟨caller, entries, none, false⟩ }).expand
        caller [.verifyNext r])
  else if entries.isEmpty then .next (s.report (some chipId) (.ok (.verified [])))
  else .next (s.raise (some chipId) (.invalidChipId chipId))

/-- The next read of the verify batch, or its end (R196). A read of another caller in flight makes the batch's next read a
concurrent issue, as it makes any request (R343; notes/assumptions/11). While the batch's own read is in flight the
caller waits and this does not run (`State.waits`). -/
def continueVerify (caller : Nat) (r : ReqId) (s : State) : Host.Outcome State Fault Refusal :=
  match (s.tracker r).batch with
  | none => .next s
  | some b =>
    if b.failed then .next (s.setTracker r { s.tracker r with batch := none })
    else
      match b.todo with
      | [] =>
        .next ((s.setTracker r { s.tracker r with batch := none }).report (some r.val)
          (.ok (.verified (s.tracker r).vfail)))
      | (a, e) :: rest =>
        if paramAddressOk s.layout a then
          issue r false (prReadFields s.layout r.val a) (some (.param a))
            (fun t => { t with batch := some { b with todo := rest, awaiting := some (a, e) } })
            (s.expand caller [.verifyNext r])
        else
          .next ((s.setTracker r { s.tracker r with batch := none }).raise (some r.val) (.addressOutOfRange a))

/-- One round of `SC.POLL` (R262): the ctrl/status read, then the test of its answer. -/
def startPoll (caller chipId : Nat) (s : State) : Host.Outcome State Fault Refusal :=
  call caller (.synapse chipId .ctrlR 0 0 0) .pollTest s

/-- The end of one round of `SC.POLL` (R262): again where its read showed `done` = 0, the end on `done` = 1 or an error. -/
def continuePoll (caller : Nat) (r : ReqId) (read : Nat) (s : State) : Host.Outcome State Fault Refusal :=
  match (s.tracker r).answerTo read with
  | some (.ok (.ctrl false _)) => .next (s.expand caller [.poll r.val])
  | _ => .next s

/-- REQ's step on the next action of a caller's script, for which the caller does not wait (R121, R122). A `DL.SEQ`
without a setting, which R238 does not speak of, only moves the pin (notes/assumptions/23). -/
def runAction (caller : Nat) (a : Action) (s : State) : Host.Outcome State Fault Refusal :=
  match a with
  | .request r => call caller r .await s
  | .paramIdle c =>
    .next (s.expand caller
      [.request (.buildControlWrite c { pramEn := some 0 }), .request (.writeParamCount c 0)])
  | .verify c entries => startVerify caller c entries s
  | .verifyNext r => continueVerify caller r s
  | .writeAll c entries =>
    .next (s.expand caller
      (entries.map (fun e => .request (.writeParam c e.1 e.2.p1 e.2.p2 e.2.p3)) ++ [.verify c entries]))
  | .compress c events =>
    if 15 < c then .next (s.raise (some c) (.invalidChipId c))
    else .next (s.expand caller ((compressGroups events).map fun g => .request (.packEvents c g)))
  | .delaySequence settings =>
    .next (s.expand caller ([.env (.addrMode true)]
      ++ settings.map (fun d => .request (.setDelay d.lineAddress d.value d.chipId)) ++ [.env (.addrMode false)]))
  | .poll c => startPoll caller c s
  | .pollTest r read => continuePoll caller r read s
  | .await _ _ => .next s
  | .env e => runEnv e s

end Sys2Proof.Machine
end

