-- ==== Sys2Proof/Machine/Agents.lean ====
section
/-! DEFINITION. The agents' steps (00_scope R17): DEV and RSP take the oldest word of their FIFO, decode it and run it,
REQ takes the next action of a caller's script, COR completes a pass, ENV acts. -/

namespace Sys2Proof.Machine

/-- How a word without an instruction is refused (R114, R115, R150). -/
def refusalOf : DecodeError → Refusal
  | .errorFlagOnRequest _ => .undefinedEncoding
  | .reservedCombination _ _ _ => .undefinedEncoding
  | .unknownCommand _ => .undefinedEncoding
  | .nothingPending _ => .unexpectedResponse

/-- An instance is strapped to the chip id of the word (R147); an empty word names none. -/
def State.addressed (s : State) (w : Word) : Bool :=
  if h : get w Field.chipid < 15 then (s.chip ⟨get w Field.chipid, h⟩).present else false

/-- The devices take the word `w` (R106, R148): with no instance of its chip id on the link every one of them skips
it, whatever its other bits are (R147). -/
def deviceWord (w : Word) (s : State) : Host.Outcome State Fault Refusal :=
  match decodeDevice s.layout s.addrMode w with
  | .ok i => exec i s
  | .error e => if s.addressed w then .refused (refusalOf e) else .next s

/-- The oldest pending read of each chip (R48, R82). -/
def State.oldestPending (s : State) (k : ChipId) : Option ReadKind := (s.tracker (reqOf k)).pending.head?

/-- RSP takes the word `w` (R107, R150). -/
def responseWord (w : Word) (s : State) : Host.Outcome State Fault Refusal :=
  match decodeResponse s.layout s.oldestPending w with
  | .ok i => exec i s
  | .error e => .refused (refusalOf e)

/-- The oldest word addressed to chip `k`, and the other words in their order: what the instance `k` takes while words
for other chips wait (R17, R81, R83, R147). -/
def takeFor (k : ChipId) : List Word → Option (Word × List Word)
  | [] => none
  | w :: rest =>
    if get w Field.chipid = k.val then some (w, rest)
    else (takeFor k rest).map fun p => (p.1, w :: p.2)

/-- One step of an agent; an agent with nothing to do, and a caller that waits (R305), change nothing. -/
def runAgent (a : Agent) (s : State) : Host.Outcome State Fault Refusal :=
  match a with
  | .dev =>
    match s.toDevice with
    | [] => .next s
    | w :: rest => deviceWord w { s with toDevice := rest, side := .device }
  | .devOf k =>
    match takeFor k s.toDevice with
    | none => .next s
    | some (w, rest) => deviceWord w { s with toDevice := rest, side := .device }
  | .rsp =>
    match s.toRequester with
    | [] => .next s
    | w :: rest => responseWord w { s with toRequester := rest, side := .requester }
  | .req caller =>
    match s.script caller with
    | [] => .next s
    | act :: rest =>
      if s.waits caller act then .next s else runAction caller act (s.setScript caller rest)
  | .cor k => .next (completionStep k s)
  | .env e => runEnv e s

/-- The caller has an action to come and does not wait. -/
def State.ready (s : State) (caller : Nat) : Bool :=
  match s.script caller with
  | [] => false
  | a :: _ => !s.waits caller a

/-- The first caller that is ready; no caller's number where none is. -/
def State.nextCaller (s : State) : Nat := ((List.range s.scripts.length).find? s.ready).getD s.scripts.length

/-- Who steps when the schedule says nothing: responses first, then requests in flight, then the first caller that is
ready, so that a caller that waits holds no other one (R83, R324; notes/assumptions/7). -/
def defaultAgent (s : State) : Agent :=
  if !s.toRequester.isEmpty then .rsp else if !s.toDevice.isEmpty then .dev else .req s.nextCaller

/-- The agent of this step, taken off the schedule. -/
def agentStep (s : State) : Host.Outcome State Fault Refusal :=
  match s.schedule with
  | [] => runAgent (defaultAgent s) s
  | a :: rest => runAgent a { s with schedule := rest }

end Sys2Proof.Machine
end

