-- ==== Sys2Proof/Machine/Step.lean ====
section
/-! DEFINITION. One step of the machine, and the state whose next step runs a given word. -/

namespace Sys2Proof.Machine

/-- One step: one agent's whole operation (R17). Over a layout that breaks R10 the rules are not stated. -/
def step (s : State) : Host.Outcome State Fault Refusal :=
  if s.layout.wf then agentStep s else .fault .illFormedLayout

/-- The state whose next step runs the word of a table row (notes/assumptions/7, 18): the word is the oldest toward the
device, packet mode, DEV steps next; a word that is an instruction at RSP only (an error response) is the oldest
toward the requester, with a read sent and pending for its chip, RSP steps next. -/
def State.withFetchWord (s : State) (nbits w : Nat) : State :=
  let word : Word := BitVec.ofNat 64 (w % 2 ^ nbits)
  match decodeDevice Layout.reference false word with
  | .error (.errorFlagOnRequest _) =>
    if h : get word Field.chipid < 15 then
      let r := reqOf ⟨get word Field.chipid, h⟩
      let t := s.tracker r
      { s.setTracker r { t with pending := .param 0 :: t.pending, readsSent := t.readsSent + 1 } with
        toRequester := word :: s.toRequester, schedule := .rsp :: s.schedule }
    else s
  | _ => { s with addrMode := false, toDevice := word :: s.toDevice, schedule := .dev :: s.schedule }

end Sys2Proof.Machine
end

