-- ==== Sys2Proof/Machine/Outputs.lean ====
section
/-! DEFINITION. The outputs of the block (10_state R53) that are views of the state: `tx_word`, `cr_out`, `dl_out`,
`pram_port`. The others are state: `ev_out` and `result` are recorded in `State`. An element that no word has written
since reset shows a free value of its width at every look, numbered by `look` (R232, R332; notes/assumptions/3).

THE MODEL'S CHOICE (notes/assumptions/32): the ports of the update FSM show what is stored, each write at once and with
either value of `pram_en`. R86, R199 and R347 promise nothing about what a running FSM sees of a write. -/

namespace Sys2Proof.Machine

/-- What a port shows of an element: what was written, else a free value of `w` bits. -/
def portShows (written : Option Nat) (w : Nat) (port : Port) (k : ChipId) (element look : Nat) : Nat :=
  match written with
  | some v => v
  | none => (Config.portValue w port k element look).toNat

/-- `cr_out` (R53): the control register field by field, the five enables and the three reset fields. -/
def Chip.crOut (L : Layout) (c : Chip) : ControlView := controlView L c.cr

/-- `dl_out` (R53, R232): 36 delay values of 3 bits, here the one of a line. -/
def State.dlOut (s : State) (k : ChipId) (line : Fin 36) (look : Nat) : BitVec 3 :=
  match (s.chip k).dl.read line.val with
  | some v => v
  | none => Config.portValue 3 .delay k line.val look

/-- `pram_port` (R53): what is stored at an address of the parameter RAM; none where the address names no entry (R66). While
`pram_en` = 1 that the FSM sees it so is the model's choice (notes/assumptions/32). -/
def State.pramPort (s : State) (k : ChipId) (a look : Nat) : Option Triple :=
  if paramAddressOk s.layout a then
    let entry := (s.chip k).pram.read a
    let w := s.layout.prPW
    some ⟨portShows (entry.map (·.p1)) w .p1 k a look, portShows (entry.map (·.p2)) w .p2 k a look,
      portShows (entry.map (·.p3)) w .p3 k a look⟩
  else none

/-- What a register port shows of a register (R332). -/
def SoftReg.written (r : SoftReg) : Option Nat := if r.defined then some r.value else none

/-- `PERIOD` as stored, beside `pram_port` (R53; notes/assumptions/32). -/
def State.periodOut (s : State) (k : ChipId) (look : Nat) : Nat :=
  portShows (s.chip k).period.written s.layout.prPeriod.width .period k 0 look

/-- `PCOUNT` as stored, beside `pram_port` (R53; notes/assumptions/32). -/
def State.pcountOut (s : State) (k : ChipId) (look : Nat) : Nat :=
  portShows (s.chip k).pcount.written s.layout.prCount.width .pcount k 0 look

/-- An entry of `LUT` as stored, beside `pram_port` (R53; notes/assumptions/32); none beyond the table. -/
def State.lutOut (s : State) (k : ChipId) (idx look : Nat) : Option LutEntry :=
  if idx < s.layout.lutN then
    let entry := (s.chip k).lut.read idx
    let w := s.layout.lutFW
    some ⟨portShows (entry.map (·.time)) w .lutTime k idx look, portShows (entry.map (·.boost)) w .lutBoost k idx look,
      portShows (entry.map (·.rep)) w .lutRepeat k idx look, portShows (entry.map (·.step)) w .lutStep k idx look⟩
  else none

/-- `tx_word` (R53) of a face. R53 says only that it is the next word to the transport, not which one while several are in
flight; the model's choice (notes/assumptions/12) is the oldest word that is toward the other face and not taken there,
with no word where the strobe is low, so that a word the environment put or changed there shows too. The requester's
face sends toward the device, the device's toward the requester. -/
def State.txWord (s : State) : Side → Option Word
  | .requester => s.toDevice.head?
  | .device => s.toRequester.head?

end Sys2Proof.Machine
end

