-- ==== Sys2Proof/Safety.lean ====
section
/-! DEFINITION. The terms the claims use: what a legal state is (`State.inv`), which words each face expects, what a
step leaves alone, and runs of instructions. -/

open Sys2Proof.Machine

namespace Sys2Proof

/-- No field of the control register covers bit `i` (R31). -/
def Layout.crReserved (L : Layout) (i : Nat) : Bool :=
  ControlField.all.all fun f => !(decide ((L.crField f).pos ≤ i) && decide (i < (L.crField f).pos + (L.crField f).width))

/-- The chip whose word or answer an instruction is; none for the empty word. -/
def Instr.chip : Instr → Option ChipId
  | .empty => none
  | .dlSet k _ _ => some k
  | .event k _ _ _ _ => some k
  | .errorResp k _ _ _ => some k
  | .sync k _ _ => some k
  | .loopback k _ _ => some k
  | .prWrite k _ _ _ _ => some k
  | .prRead k _ => some k
  | .prReadResp k _ _ _ _ => some k
  | .prPeriod k _ => some k
  | .prLut k _ _ _ _ _ => some k
  | .prCount k _ => some k
  | .ctrlWrite k _ _ => some k
  | .statusRead0 k => some k
  | .statusRead1 k => some k
  | .statusRead2 k => some k
  | .statusRead3 k => some k
  | .statusResp0 k _ _ => some k
  | .statusResp1 k _ _ => some k
  | .statusResp2 k _ _ => some k
  | .statusResp3 k _ _ _ _ => some k
  | .scCtrlR k => some k
  | .scTimeW k _ => some k
  | .scTimeR k => some k
  | .scPlutW k _ _ _ => some k
  | .scPlutR k _ _ => some k
  | .scSynW k _ _ _ => some k
  | .scSynR k _ _ => some k
  | .scClose k => some k
  | .scCorRead k _ => some k
  | .scPcor k => some k
  | .scPcorc k => some k
  | .scResp k _ _ _ _ => some k
  | .areadout k _ _ => some k
  | .evloopback k _ _ => some k
  | .dummycmd k _ _ => some k

/-- The instruction is a request that the device reads in packet mode (R105): every row of direction 'req' but
`DL.SET`. -/
def Instr.isPacketRequest : Instr → Bool
  | .empty => true
  | .dlSet _ _ _ => false
  | .event _ _ _ _ _ => true
  | .errorResp _ _ _ _ => false
  | .sync _ _ _ => true
  | .loopback _ _ _ => true
  | .prWrite _ _ _ _ _ => true
  | .prRead _ _ => true
  | .prReadResp _ _ _ _ _ => false
  | .prPeriod _ _ => true
  | .prLut _ _ _ _ _ _ => true
  | .prCount _ _ => true
  | .ctrlWrite _ _ _ => true
  | .statusRead0 _ => true
  | .statusRead1 _ => true
  | .statusRead2 _ => true
  | .statusRead3 _ => true
  | .statusResp0 _ _ _ => false
  | .statusResp1 _ _ _ => false
  | .statusResp2 _ _ _ => false
  | .statusResp3 _ _ _ _ _ => false
  | .scCtrlR _ => true
  | .scTimeW _ _ => true
  | .scTimeR _ => true
  | .scPlutW _ _ _ _ => true
  | .scPlutR _ _ _ => true
  | .scSynW _ _ _ _ => true
  | .scSynR _ _ _ => true
  | .scClose _ => true
  | .scCorRead _ _ => true
  | .scPcor _ => true
  | .scPcorc _ => true
  | .scResp _ _ _ _ _ => false
  | .areadout _ _ _ => true
  | .evloopback _ _ _ => true
  | .dummycmd _ _ _ => true

/-- The instruction is what RSP reads from a word that answers a read of this kind (R105, R107): an error response
answers a read of any kind. -/
def Instr.answers (kind : ReadKind) : Instr → Bool
  | .errorResp _ _ _ _ => true
  | .statusResp0 _ _ _ => kind == .status 0#2
  | .statusResp1 _ _ _ => kind == .status 1#2
  | .statusResp2 _ _ _ => kind == .status 2#2
  | .statusResp3 _ _ _ _ _ => kind == .status 3#2
  | .prReadResp _ _ _ _ _ => match kind with | .param _ => true | _ => false
  | .scResp _ _ _ _ _ => match kind with | .synram _ => true | _ => false
  | .sync _ _ _ => kind == .misc .sync
  | .loopback _ _ _ => kind == .misc .loopback
  | .areadout _ _ _ => kind == .misc .areadout
  | .evloopback _ _ _ => kind == .misc .evloopback
  | .dummycmd _ _ _ => kind == .misc .dummycmd
  | .empty => false
  | .dlSet _ _ _ => false
  | .event _ _ _ _ _ => false
  | .prWrite _ _ _ _ _ => false
  | .prRead _ _ => false
  | .prPeriod _ _ => false
  | .prLut _ _ _ _ _ _ => false
  | .prCount _ _ => false
  | .ctrlWrite _ _ _ => false
  | .statusRead0 _ => false
  | .statusRead1 _ => false
  | .statusRead2 _ => false
  | .statusRead3 _ => false
  | .scCtrlR _ => false
  | .scTimeW _ _ => false
  | .scTimeR _ => false
  | .scPlutW _ _ _ _ => false
  | .scPlutR _ _ _ => false
  | .scSynW _ _ _ _ => false
  | .scSynR _ _ _ => false
  | .scClose _ => false
  | .scCorRead _ _ => false
  | .scPcor _ => false
  | .scPcorc _ => false

/-- A request that is made in address mode: `setDelay` alone (R237). -/
def Request.addressMode : Request → Bool
  | .setDelay _ _ _ => true
  | _ => false

/-- The slot that `packEvents` makes of a record (R212, R214, R215): an absent or invalid one has the other polarity and
zeros. -/
def recordSlot (L : Layout) : Option EventRequest → Slot
  | some e =>
    if e.valid then
      ⟨BitVec.ofNat 1 L.evValidPolarity, BitVec.ofNat 4 e.timeBin, e.absoluteTime.extractLsb' 0 4,
        BitVec.ofNat 9 e.neuronAddress⟩
    else ⟨BitVec.ofNat 1 (1 - L.evValidPolarity), 0, 0, 0⟩
  | none => ⟨BitVec.ofNat 1 (1 - L.evValidPolarity), 0, 0, 0⟩

/-- The number modulo the field's width (R131). -/
def Field.reduce (f : Field) (n : Nat) : Nat := n % 2 ^ f.width

/-- The instruction a request for chip `k` stands for, its operands reduced to their fields (R105, R120, R123); none for
the requests that send no word. -/
def Request.sends (L : Layout) (k : ChipId) : Request → Option Instr
  | .extract _ _ _ => none
  | .insert _ _ _ _ => none
  | .classify _ => none
  | .classifyCommand _ => none
  | .build _ _ _ => none
  | .buildCommand _ _ _ _ => none
  | .decodeStatus _ _ => none
  | .unpackEvents _ => none
  | .buildControlWrite _ m => some (.ctrlWrite k (controlValue L m) (controlMask m))
  | .buildStatusRead _ 0 => some (.statusRead0 k)
  | .buildStatusRead _ 1 => some (.statusRead1 k)
  | .buildStatusRead _ 2 => some (.statusRead2 k)
  | .buildStatusRead _ 3 => some (.statusRead3 k)
  | .buildStatusRead _ _ => none
  | .writeParam _ a p1 p2 p3 => some (.prWrite k a (L.prP1.reduce p1) (L.prP2.reduce p2) (L.prP3.reduce p3))
  | .readParam _ a => some (.prRead k a)
  | .writePeriod _ cycles => some (.prPeriod k (L.prPeriod.reduce cycles))
  | .writeLookupEntry _ index time boost rep step =>
    some (.prLut k (L.lutIdx.reduce index) (L.lutTime.reduce time) (L.lutBoost.reduce boost)
      (L.lutRepeat.reduce rep) (L.lutStep.reduce step))
  | .writeParamCount _ n => some (.prCount k (L.prCount.reduce n))
  | .packEvents _ es =>
    some (.event k (sharedMsb es) (recordSlot L es[0]?) (recordSlot L es[1]?) (recordSlot L es[2]?))
  | .setDelay line value _ => some (.dlSet k line (BitVec.ofNat 3 value))
  | .synapse _ .ctrlR _ _ _ => some (.scCtrlR k)
  | .synapse _ .timeW _ _ data => some (.scTimeW k (L.scData.reduce data))
  | .synapse _ .timeR _ _ _ => some (.scTimeR k)
  | .synapse _ .plutW row col data =>
    some (.scPlutW k (L.scRow.reduce row) (L.scCol.reduce col) (L.scData.reduce data))
  | .synapse _ .plutR row col _ => some (.scPlutR k (L.scRow.reduce row) (L.scCol.reduce col))
  | .synapse _ .synW row col data =>
    some (.scSynW k (L.scRow.reduce row) (L.scCol.reduce col) (L.scData.reduce data))
  | .synapse _ .synR row col _ => some (.scSynR k (L.scRow.reduce row) (L.scCol.reduce col))
  | .synapse _ .close _ _ _ => some (.scClose k)
  | .synapse _ .corRead _ col _ => some (.scCorRead k (L.scCol.reduce col))
  | .synapse _ .pcor _ _ _ => some (.scPcor k)
  | .synapse _ .pcorc _ _ _ => some (.scPcorc k)
  | .misc _ .sync rwb ci => some (.sync k (BitVec.ofBool rwb) (BitVec.ofNat 53 ci))
  | .misc _ .loopback rwb ci => some (.loopback k (BitVec.ofBool rwb) (BitVec.ofNat 53 ci))
  | .misc _ .areadout rwb ci => some (.areadout k (BitVec.ofBool rwb) (BitVec.ofNat 53 ci))
  | .misc _ .evloopback rwb ci => some (.evloopback k (BitVec.ofBool rwb) (BitVec.ofNat 53 ci))
  | .misc _ .dummycmd rwb ci => some (.dummycmd k (BitVec.ofBool rwb) (BitVec.ofNat 53 ci))

/-- The kind of read that a request pushes on `PENDING` (R48, R149, R160, R186, R248, R276); none for a write. -/
def Request.reads : Request → Option ReadKind
  | .buildStatusRead _ selector => some (.status (BitVec.ofNat 2 selector))
  | .readParam _ a => some (.param a)
  | .synapse _ .ctrlR _ _ _ => some (.synram .ctrl)
  | .synapse _ .timeR _ _ _ => some (.synram .time)
  | .synapse _ .plutR _ _ _ => some (.synram .plut)
  | .synapse _ .synR _ _ _ => some (.synram .syn)
  | .synapse _ .corRead _ _ _ => some (.synram .corRead)
  | .misc _ cmd true _ => some (.misc cmd)
  | _ => none

/-- The truncations of a record of `packEvents` in slot `k` (R215). -/
def recordTruncations (k : Nat) : Option EventRequest → List Overflow
  | some e =>
    if e.valid then overflowOf (Field.evTbin k) e.timeBin ++ overflowOf (Field.evNadr k) e.neuronAddress else []
  | none => []

/-- The log entries of a request whose word is sent: one for each operand too wide for its field, in the order of the
inserts (R123, R131, R292). -/
def Request.truncations (L : Layout) : Request → List Overflow
  | .buildControlWrite _ m => controlOverflows L m
  | .writeParam _ _ p1 p2 p3 => overflowOf L.prP1 p1 ++ overflowOf L.prP2 p2 ++ overflowOf L.prP3 p3
  | .writePeriod _ cycles => overflowOf L.prPeriod cycles
  | .writeLookupEntry _ index time boost rep step =>
    overflowOf L.lutIdx index ++ overflowOf L.lutTime time ++ overflowOf L.lutBoost boost
      ++ overflowOf L.lutRepeat rep ++ overflowOf L.lutStep step
  | .writeParamCount _ n => overflowOf L.prCount n
  | .packEvents _ es => recordTruncations 0 es[0]? ++ recordTruncations 1 es[1]? ++ recordTruncations 2 es[2]?
  | .synapse _ .timeW _ _ data => overflowOf L.scData data
  | .synapse _ .plutW row col data => overflowOf L.scRow row ++ overflowOf L.scCol col ++ overflowOf L.scData data
  | .synapse _ .synW row col data => overflowOf L.scRow row ++ overflowOf L.scCol col ++ overflowOf L.scData data
  | .synapse _ .plutR row col _ => overflowOf L.scRow row ++ overflowOf L.scCol col
  | .synapse _ .synR row col _ => overflowOf L.scRow row ++ overflowOf L.scCol col
  | .synapse _ .corRead _ col _ => overflowOf L.scCol col
  | .misc _ _ _ ci => overflowOf Field.ci ci
  | _ => []

namespace Machine

/-! Legal states. -/

/-- The bits of the control register that no field covers are 0 (R31). -/
def crReservedZero (L : Layout) (cr : BitVec 32) : Bool :=
  (List.range 32).all fun i => !L.crReserved i || !cr.getLsbD i

/-- The three parameters fit their fields (R38). -/
def tripleFits (L : Layout) (t : Triple) : Bool := L.prP1.fits t.p1 && L.prP2.fits t.p2 && L.prP3.fits t.p3

/-- The four fields of a lookup entry fit (R40). -/
def lutFits (L : Layout) (e : LutEntry) : Bool :=
  L.lutTime.fits e.time && L.lutBoost.fits e.boost && L.lutRepeat.fits e.rep && L.lutStep.fits e.step

/-- A legal device instance: reserved bits 0 (R31), `BUSY` = 1 implies `DONE` = 0 (R266 (e)), every memory in its
canonical form with every element inside its array and of its width, every register of its width. -/
def Chip.inv (L : Layout) (c : Chip) : Bool :=
  crReservedZero L c.cr && (!c.busy || !c.done)
    && (c.pram.wf && c.pram.within L.prTotal (tripleFits L))
    && (c.lut.wf && c.lut.within L.lutN (lutFits L))
    && (c.dl.wf && c.dl.within 36 fun _ => true)
    && (c.syn.wf && c.syn.within (L.scRows * L.scCols) L.scData.fits)
    && (c.plut.wf && c.plut.within (L.scRows * L.scCols) L.scData.fits)
    && (L.prPeriod.fits c.period.value && L.prCount.fits c.pcount.value && L.scData.fits c.sctime.value)
    && decide (c.revision < 2 ^ L.revW)

/-- The row number of a row state fits the row field (R47, R248). -/
def RowState.inv (L : Layout) : RowState → Bool
  | .idle => true
  | .rowOpen r => L.scRow.fits r
  | .processing r => L.scRow.fits r

/-- A verify batch that awaits a response has exactly its own read in flight (R196). -/
def Tracker.batchInv (t : Tracker) : Bool :=
  match t.awaitingBatch with
  | some (_, a, _) => t.pending == [.param a]
  | none => true

/-- The reads answered come before those in flight in the numbering (R82, R150): no read is answered before it is sent,
and no number is given twice. -/
def Tracker.readsInv (t : Tracker) : Bool :=
  decide (t.pending.length ≤ t.readsSent) && t.answers.all fun e => decide (e.1 < t.oldestRead)

/-- A legal tracker: at most one read in flight (R48, R343), a legal row, a legal batch, reads answered in order. -/
def Tracker.inv (L : Layout) (t : Tracker) : Bool :=
  decide (t.pending.length ≤ 1) && t.row.inv L && t.batchInv && t.readsInv

/-- A legal state. -/
def State.inv (s : State) : Bool :=
  s.layout.wf && s.chips.toList.all (Chip.inv s.layout) && s.trackers.toList.all (Tracker.inv s.layout)

/-- The premise that R26 names: `CMERR` is set in no chip. -/
def State.cmerrClear (s : State) : Bool := s.chips.toList.all fun c => !c.cmerr

/-! What a step leaves alone. -/

/-- Nothing but the device instance at chip id `k` differs between the two states. -/
def OnlyChip (k : ChipId) (s t : State) : Prop :=
  t = { s with chips := t.chips } ∧ ∀ j : ChipId, j ≠ k → t.chip j = s.chip j

/-- Every element reads as before, but for the one at `a`. -/
def SameBut {α : Type} (a : Nat) (m m' : Memory α) : Prop := ∀ b : Nat, b ≠ a → m'.read b = m.read b

/-- The device has answered with the word `w`, taking `n` free values, and nothing else has changed (R73). -/
def Answered (w : Word) (n : Nat) (s t : State) : Prop :=
  t = { s with toRequester := s.toRequester ++ [w], draws := s.draws + n }

/-- The tracker after RSP has taken its oldest pending read off, leaving `rest`, and ended it in `r` (R150). -/
def Tracker.ended (t : Tracker) (rest : List ReadKind) (r : Result) : Tracker :=
  { t with pending := rest, answers := t.answers ++ [(t.oldestRead, r)] }

/-- RSP has taken the oldest pending read of chip `k` off, leaving `rest`, and returned `r` to the caller that waits for
it; nothing else has changed (R150). -/
def Returned (k : ChipId) (rest : List ReadKind) (r : Result) (s t : State) : Prop :=
  t = (s.setTracker (reqOf k) ((s.tracker (reqOf k)).ended rest r)).report (some k.val) r

/-! Runs. -/

/-- The instructions run one after another, as long as each gives a next state. -/
def runInstrs : List Instr → State → Host.Outcome State Fault Refusal
  | [], s => .next s
  | i :: is, s =>
    match exec i s with
    | .next t => runInstrs is t
    | .fault f => .fault f
    | .refused r => .refused r

/-- `n` steps of the machine. -/
def runSteps : Nat → State → Host.Outcome State Fault Refusal
  | 0, s => .next s
  | n + 1, s =>
    match step s with
    | .next t => runSteps n t
    | .fault f => .fault f
    | .refused r => .refused r

/-- No instruction of the list writes the parameter-RAM entry `a` of chip `k`. -/
def noParamWrite (k : ChipId) (a : Nat) (is : List Instr) : Bool :=
  is.all fun i => match i with | .prWrite j b _ _ _ => !(j == k && b == a) | _ => true

end Machine

end Sys2Proof
end

