-- ==== Sys2Proof/Certificates/Slice0/Obligations.lean ====
section
/-! DEFINITION. The statements for the provers. Each names the rules of spec/ it formalises or rests on; where the spec
marks such a rule as its own decision (92_eei_decisions) or the model chose (notes/assumptions), the docstring says so.
A statement about a free value holds for every value of it. -/

open Sys2Proof Sys2Proof.Machine

/-! Words and instructions. -/

/-- A STEP RUNS THE DECODED INSTRUCTION, AND EACH AGENT'S OWN OPERATION (00_scope R17; 41_packet_framer R148, R150;
30_encoding R106, R107; 10_state R26). Where DEV steps and its oldest word decodes to `i`, the step is `exec i` on the
state without the word; the same where the instance of one chip takes the oldest word addressed to it, and at RSP,
whose decoder goes by the oldest pending read of the word's chip. REQ's step runs the next action of the caller's
script, and changes nothing while the caller waits for a response; ENV's step runs its action, which sets `CMERR` where
it is that. An agent steps when the schedule names it; with an empty schedule (the model's choice, notes/assumptions/7)
RSP steps where a response waits, else DEV where a word waits, else the first caller with an action that does not wait.
Rests on decisions D6, D13, D18, D27, D31 of the spec, and on the model's notes/assumptions/7, 13, 28. -/
def Obligations.StepRunsDecodedWord : Prop :=
  ∀ (s : State) (later : List Agent), s.layout.wf = true →
    (∀ w rest i, s.toDevice = w :: rest → decodeDevice s.layout s.addrMode w = .ok i →
      (s.schedule = .dev :: later →
        step s = exec i { s with toDevice := rest, side := .device, schedule := later }) ∧
      (s.schedule = [] → s.toRequester = [] → step s = exec i { s with toDevice := rest, side := .device })) ∧
    (∀ (k : ChipId) (before after : List Word) (w : Word) (i : Instr), s.toDevice = before ++ w :: after →
      (∀ v ∈ before, get v Field.chipid ≠ k.val) → get w Field.chipid = k.val →
      decodeDevice s.layout s.addrMode w = .ok i → s.schedule = .devOf k :: later →
      step s = exec i { s with toDevice := before ++ after, side := .device, schedule := later }) ∧
    (∀ w rest i, s.toRequester = w :: rest → decodeResponse s.layout s.oldestPending w = .ok i →
      (s.schedule = .rsp :: later →
        step s = exec i { s with toRequester := rest, side := .requester, schedule := later }) ∧
      (s.schedule = [] → step s = exec i { s with toRequester := rest, side := .requester })) ∧
    (∀ caller action actions, s.script caller = action :: actions →
      (s.schedule = .req caller :: later → s.waits caller action = true →
        step s = .next { s with schedule := later }) ∧
      (s.schedule = .req caller :: later → s.waits caller action = false →
        step s = runAction caller action { s with schedule := later, scripts := s.scripts.set caller actions }) ∧
      (s.schedule = [] → s.toDevice = [] → s.toRequester = [] → s.waits caller action = false →
        (∀ j a as, j < caller → s.script j = a :: as → s.waits j a = true) →
        step s = runAction caller action { s with scripts := s.scripts.set caller actions })) ∧
    (∀ e, s.schedule = .env e :: later → step s = runEnv e { s with schedule := later }) ∧
    (∀ k, runEnv (.setCmerr k) s = .next (s.setChip k { s.chip k with cmerr := true }))

/-- A word without an instruction (30_encoding R114, R115; 41_packet_framer R147, R150): the device refuses it as an
undefined encoding where an instance has its chip id, and every instance skips it where none has; RSP refuses it as
unexpected. Rests on decision D18 of the spec, and on the model's notes/assumptions/18. -/
def Obligations.StepOnUndecodedWord : Prop :=
  ∀ (s : State) (w : Word) (rest : List Word) (e : DecodeError) (later : List Agent), s.layout.wf = true →
    (s.schedule = .dev :: later → s.toDevice = w :: rest → decodeDevice s.layout s.addrMode w = .error e →
      (s.addressed w = true → step s = .refused .undefinedEncoding) ∧
      (s.addressed w = false →
        step s = .next { s with toDevice := rest, side := .device, schedule := later })) ∧
    (s.schedule = .rsp :: later → s.toRequester = w :: rest →
      decodeResponse s.layout s.oldestPending w = .error e → step s = .refused .unexpectedResponse)

/-- Words written out in 43_param_ram R184, R186, R191 to R193, 42_control_status R157, R160, 46_synapse_control R250,
R253, R259, 44_event_codec R212, 45_delay_line R234 and 41_packet_framer R145 decode, in the reference layout, to the
instructions they stand for. A sanity statement. Rests on decisions D2 to D15 of the spec. -/
def Obligations.WrittenWordsDecode : Prop :=
  decodeDevice .reference false 0x000781402800A20C#64 = .ok (.prWrite 3 5 10 20 30) ∧
  decodeDevice .reference false 0x000000000000A24C#64 = .ok (.prRead 3 5) ∧
  decodeDevice .reference false 0x00000000007D0A0C#64 = .ok (.prPeriod 3 1000) ∧
  decodeDevice .reference false 0x00000000CA86520C#64 = .ok (.prLut 3 2 3 4 5 6) ∧
  decodeDevice .reference false 0x0000000003A41A0C#64 = .ok (.prCount 3 7456) ∧
  decodeDevice .reference false 0x000080000000830C#64 = .ok (.ctrlWrite 3 4#32 4#8) ∧
  decodeDevice .reference false 0x000000000000034C#64 = .ok (.statusRead0 3) ∧
  decodeDevice .reference false 0x0000000000001B4C#64 = .ok (.statusRead3 3) ∧
  decodeDevice .reference false 0x000000000000044C#64 = .ok (.scCtrlR 3) ∧
  decodeDevice .reference false 0x000ABCDEF0411C0C#64 = .ok (.scSynW 3 4 1 0xABCDEF) ∧
  decodeDevice .reference false 0x000000000000340C#64 = .ok (.scPcor 3) ∧
  decodeDevice .reference false 0x000000002AA6F449#64 =
    .ok (.event 2 0xA#4 ⟨1#1, 7#4, 3#4, 0x155#9⟩ ⟨0#1, 0#4, 0#4, 0#9⟩ ⟨0#1, 0#4, 0#4, 0#9⟩) ∧
  decodeDevice .reference true 0x00000000000078CC#64 = .ok (.dlSet 3 35 7#3) ∧
  decodeDevice .reference false 0x000000000000003C#64 = .ok .empty

/-- DECODE AND ENCODE AGREE for the packet requests (30_encoding R91 to R97, R99, R106; 40_bitfield_codec R137), in
every well-formed layout and for every operand that fits its field. Rests on decisions D4, D5, D8, D15, D17, D20 of
the spec, and on the model's notes/assumptions/22. -/
def Obligations.PacketRequestsRoundTrip : Prop :=
  ∀ (L : Layout) (i : Instr), L.wf = true → i.wf L = true → i.isPacketRequest = true →
    decodeDevice L false (encode L i) = .ok i

/-- DECODE AND ENCODE AGREE for the words RSP reads (30_encoding R95 to R97, R99, R107, R108; 47_misc_commands R282):
a response to the oldest pending read, an error response to any, an event word with anything pending. Rests on
decisions D5, D6, D15 of the spec, and on the model's notes/assumptions/13, 17, 22. -/
def Obligations.ResponsesRoundTrip : Prop :=
  ∀ (L : Layout) (pendingOf : ChipId → Option ReadKind), L.wf = true →
    (∀ (i : Instr) (k : ChipId) (kind : ReadKind), i.wf L = true → i.chip = some k → pendingOf k = some kind →
      i.answers kind = true → decodeResponse L pendingOf (encode L i) = .ok i) ∧
    (∀ (k : ChipId) (m : BitVec 4) (s0 s1 s2 : Slot),
      decodeResponse L pendingOf (encode L (.event k m s0 s1 s2)) = .ok (.event k m s0 s1 s2))

/-- The delay-line word (45_delay_line R234, R235, R241 (d); 30_encoding R98): in address mode it decodes to what it
was built from, and distinct triples of chip id, line and value give distinct words. Rests on decision D13 of the
spec, and on the model's notes/assumptions/22. -/
def Obligations.DelayWordsRoundTrip : Prop :=
  ∀ (L : Layout), L.wf = true →
    (∀ (k : ChipId) (a : Nat) (v : BitVec 3), a < 36 →
      decodeDevice L true (encode L (.dlSet k a v)) = .ok (.dlSet k a v)) ∧
    (∀ (c a v c' a' v' : Nat), c < 16 → a < 36 → v < 8 → c' < 16 → a' < 36 → v' < 8 →
      assemble (delayFields L c a v) = assemble (delayFields L c' a' v') → c = c' ∧ a = a' ∧ v = v')

/-- Whatever a decoder reads is well formed (30_encoding R100, R106, R107): every operand fits its field, in every
layout, for every word. -/
def Obligations.DecodedIsWellFormed : Prop :=
  ∀ (L : Layout) (w : Word) (i : Instr),
    (∀ m, decodeDevice L m w = .ok i → i.wf L = true) ∧
    (∀ p, decodeResponse L p w = .ok i → i.wf L = true)

/-- The encodings of 30_encoding R114 and R115 have no meaning at the device: an odd command code; a parameter-RAM
read with a sub-command other than 0; the four synapse-control combinations. Rests on decision D18 of the spec. -/
def Obligations.ReservedEncodingsRefused : Prop :=
  ∀ (s : State) (w : Word) (k : ChipId), s.layout.wf = true → s.addrMode = false →
    get w Field.chipid = k.val → (s.chip k).present = true → get w Field.eventp = 0 →
    (get w Field.cmd % 2 = 1 ∨
      (get w Field.cmd = s.layout.cmdParamram ∧ get w Field.cmdrwb = 1 ∧ get w s.layout.prSub ≠ 0) ∨
      (get w Field.cmd = s.layout.cmdSynram ∧ get w Field.cmdrwb = 0 ∧
        (get w s.layout.scSub = 0 ∨ get w s.layout.scSub = 5)) ∨
      (get w Field.cmd = s.layout.cmdSynram ∧ get w Field.cmdrwb = 1 ∧
        (get w s.layout.scSub = 4 ∨ get w s.layout.scSub = 6 ∨ get w s.layout.scSub = 7))) →
    deviceWord w s = .refused .undefinedEncoding

/-- R111: every consumer skips an empty word, whatever its other 60 bits: DEV in either mode, RSP, the event unpacker.
The word is consumed and nothing else happens. -/
def Obligations.EmptyWordsSkipped : Prop :=
  ∀ (w : Word), get w Field.chipid = 15 →
    (∀ (s : State) (rest : List Word) (later : List Agent), s.layout.wf = true →
      (s.schedule = .dev :: later → s.toDevice = w :: rest →
        step s = .next { s with toDevice := rest, side := .device, schedule := later }) ∧
      (s.schedule = .rsp :: later → s.toRequester = w :: rest →
        step s = .next { s with toRequester := rest, side := .requester, schedule := later })) ∧
    (∀ L : Layout, unpackEvents L w = []) ∧
    (∀ s : State, exec .empty s = .next s)

/-- 41_packet_framer R147: a request word for a chip id that no instance on the link has changes nothing. Rests on
decision D18 of the spec, and on the model's notes/assumptions/5. -/
def Obligations.AbsentChipSkips : Prop :=
  ∀ (s : State) (i : Instr) (k : ChipId), s.side = .device → i.chip = some k → (s.chip k).present = false →
    (i.isPacketRequest = true ∨ ∃ a v, i = .dlSet k a v) → exec i s = .next s

/-- What the device refuses after decoding: a field value that names no element (30_encoding R117, 43_param_ram R190),
and every row-bound word while a pass runs (46_synapse_control R249). Rests on decisions D16, D18 of the spec, and on
the model's notes/assumptions/10. -/
def Obligations.DeviceRefusals : Prop :=
  ∀ (s : State) (k : ChipId), (s.chip k).present = true →
    (∀ a p1 p2 p3, s.layout.prTotal ≤ a → exec (.prWrite k a p1 p2 p3) s = .refused .undefinedEncoding) ∧
    (∀ a, s.layout.prTotal ≤ a → exec (.prRead k a) s = .refused .undefinedEncoding) ∧
    (∀ a v, 36 ≤ a → exec (.dlSet k a v) s = .refused .undefinedEncoding) ∧
    (∀ i a b c d, s.layout.lutN ≤ i → exec (.prLut k i a b c d) s = .refused .undefinedEncoding) ∧
    (∀ c, s.layout.scCols ≤ c → exec (.scCorRead k c) s = .refused .undefinedEncoding) ∧
    ((s.chip k).busy = false → ∀ r c d, (s.layout.scRows ≤ r ∨ s.layout.scCols ≤ c) →
      ∀ i ∈ [Instr.scPlutW k r c d, .scPlutR k r c, .scSynW k r c d, .scSynR k r c],
        exec i s = .refused .undefinedEncoding) ∧
    ((s.chip k).busy = true → ∀ r c d,
      ∀ i ∈ [Instr.scPlutW k r c d, .scPlutR k r c, .scSynW k r c d, .scSynR k r c, .scClose k, .scPcor k, .scPcorc k],
        exec i s = .refused .unspecifiedTransition)

/-! The device face: what each request does, and that nothing else changes. -/

/-- `PR.PERIOD`, `PR.COUNT`, `SC.TIME.W` (43_param_ram R191, R193; 46_synapse_control R251): the register takes the
value of the word, and nothing else changes. Rests on decisions D8, D15 of the spec, and on the model's
notes/assumptions/4. -/
def Obligations.RegisterWritesStore : Prop :=
  ∀ (s : State) (k : ChipId) (v : Nat), (s.chip k).present = true →
    (∃ t, exec (.prPeriod k v) s = .next t ∧ OnlyChip k s t ∧
      t.chip k = { s.chip k with period := ⟨v, true⟩ }) ∧
    (∃ t, exec (.prCount k v) s = .next t ∧ OnlyChip k s t ∧
      t.chip k = { s.chip k with pcount := ⟨v, true⟩ }) ∧
    (∃ t, exec (.scTimeW k v) s = .next t ∧ OnlyChip k s t ∧
      t.chip k = { s.chip k with sctime := ⟨v, true⟩ })

/-- `CTRL.WRITE` (42_control_status R158, 10_state R31, R32): each field whose mask bit is 1 takes its bits of the
value, each other field and every reserved bit keeps what it held; nothing else changes. Rests on decision D4 of the
spec. -/
def Obligations.CtrlWriteIsMasked : Prop :=
  ∀ (s : State) (k : ChipId) (val : BitVec 32) (fmask : BitVec 8),
    s.layout.wf = true → (s.chip k).present = true →
    ∃ t, exec (.ctrlWrite k val fmask) s = .next t ∧ OnlyChip k s t ∧
      t.chip k = { s.chip k with cr := (t.chip k).cr } ∧
      (∀ f : ControlField, get (t.chip k).cr (s.layout.crField f) =
        if fmask.getLsbD f.index then get val (s.layout.crField f) else get (s.chip k).cr (s.layout.crField f)) ∧
      (∀ i, s.layout.crReserved i = true → (t.chip k).cr.getLsbD i = (s.chip k).cr.getLsbD i)

/-- Laws of the masked write that the spec derives (42_control_status R159 (c) to (f)), in every well-formed layout:
twice is once; one write after another is the one write whose fields are those of either, the later value overriding;
disjoint masks commute; a later write of the same fields wins; the empty mask is the identity; a reserved bit is never
written. Rests on decision D4 of the spec. -/
def Obligations.MaskedWriteLaws : Prop :=
  ∀ (L : Layout) (cr v v' : BitVec 32) (m m' : BitVec 8), L.wf = true →
    maskedWrite L (maskedWrite L cr v m) v m = maskedWrite L cr v m ∧
    maskedWrite L (maskedWrite L cr v m) v' m' = maskedWrite L cr (maskedWrite L v v' m') (m ||| m') ∧
    (m &&& m' = 0#8 →
      maskedWrite L (maskedWrite L cr v m) v' m' = maskedWrite L (maskedWrite L cr v' m') v m) ∧
    (m &&& m' = m → maskedWrite L (maskedWrite L cr v m) v' m' = maskedWrite L cr v' m') ∧
    maskedWrite L cr v 0#8 = cr ∧
    (crReservedZero L cr = true → crReservedZero L (maskedWrite L cr v m) = true)

/-- A control write request (42_control_status R156, R157; 30_encoding R103; 43_param_ram R200): in packet mode with
nothing in flight for the chip it sends one `CTRL.WRITE` word, whose mask has the bit of each field named and no other,
and whose value holds each named value at the field's own position, reduced to its width, and 0 elsewhere. It leaves
nothing in flight, and `PRFSM` follows `pram_en` where the request names it. Rests on decision D4 of the spec, and on
the model's notes/assumptions/26. -/
def Obligations.ControlRequestNamesFields : Prop :=
  ∀ (s : State) (k : ChipId) (m : ControlMap), s.layout.wf = true → s.addrMode = false →
    (s.tracker (reqOf k)).pending = [] →
    ∃ t w val fmask, runRequest (.buildControlWrite k.val m) s = .next t ∧ t.toDevice = s.toDevice ++ [w] ∧
      decodeDevice s.layout false w = .ok (.ctrlWrite k val fmask) ∧
      (∀ f : ControlField, fmask.getLsbD f.index = (m.get f).isSome ∧
        (∀ v, m.get f = some v → get val (s.layout.crField f) = v % 2 ^ (s.layout.crField f).width) ∧
        (m.get f = none → get val (s.layout.crField f) = 0)) ∧
      crReservedZero s.layout val = true ∧
      t.tracker (reqOf k) = { s.tracker (reqOf k) with
        prfsm := match m.pramEn with
          | some v => if v % 2 = 1 then .enabled else .disabled
          | none => (s.tracker (reqOf k)).prfsm }

/-- `PR.WRITE` (43_param_ram R185, 20_memory R71): all three parameters of the entry at once; every other entry, and
everything else, is unchanged. Rests on decision D8 of the spec, and on the model's notes/assumptions/3. -/
def Obligations.ParamWriteStores : Prop :=
  ∀ (s : State) (k : ChipId) (a p1 p2 p3 : Nat), (s.chip k).present = true → a < s.layout.prTotal →
    ∃ t, exec (.prWrite k a p1 p2 p3) s = .next t ∧ OnlyChip k s t ∧
      t.chip k = { s.chip k with pram := (t.chip k).pram } ∧
      (t.chip k).pram.read a = some ⟨p1, p2, p3⟩ ∧ SameBut a (s.chip k).pram (t.chip k).pram

/-- `PR.READ` (43_param_ram R187, R188; 20_memory R73): one response with the address and the entry; the device is
unchanged. An entry not written since reset is answered with some triple, of which nothing is said but its widths.
Rests on decisions D6, D23 of the spec, and on the model's notes/assumptions/2, 3. -/
def Obligations.ParamReadAnswers : Prop :=
  ∀ (s : State) (k : ChipId) (a : Nat), (s.chip k).present = true → a < s.layout.prTotal →
    (∀ v, (s.chip k).pram.read a = some v →
      ∃ t, exec (.prRead k a) s = .next t ∧
        Answered (encode s.layout (.prReadResp k a v.p1 v.p2 v.p3)) 0 s t) ∧
    ((s.chip k).pram.read a = none →
      ∃ v n t, tripleFits s.layout v = true ∧ exec (.prRead k a) s = .next t ∧
        Answered (encode s.layout (.prReadResp k a v.p1 v.p2 v.p3)) n s t)

/-- `PR.LUT` and `DL.SET` (43_param_ram R192; 45_delay_line R235, R241; 20_memory R71): one whole entry takes the
word's values; every other entry, and everything else, is unchanged. Rests on decisions D8, D13 of the spec, and on
the model's notes/assumptions/3. -/
def Obligations.TableWritesStore : Prop :=
  ∀ (s : State) (k : ChipId), (s.chip k).present = true →
    (∀ idx time boost rep step, idx < s.layout.lutN →
      ∃ t, exec (.prLut k idx time boost rep step) s = .next t ∧ OnlyChip k s t ∧
        t.chip k = { s.chip k with lut := (t.chip k).lut } ∧
        (t.chip k).lut.read idx = some ⟨time, boost, rep, step⟩ ∧ SameBut idx (s.chip k).lut (t.chip k).lut) ∧
    (∀ a v, a < 36 →
      ∃ t, exec (.dlSet k a v) s = .next t ∧ OnlyChip k s t ∧
        t.chip k = { s.chip k with dl := (t.chip k).dl } ∧
        (t.chip k).dl.read a = some v ∧ SameBut a (s.chip k).dl (t.chip k).dl)

/-- `STATUS.READ.0` to `.3` (42_control_status R160 to R164, 20_memory R73): one response; view 0 shows `CR` and
`REVISION` as they are now; views 1 to 3 show inputs, of which nothing is said but their widths. The device is
unchanged. Rests on decisions D5, D32 of the spec, and on the model's notes/assumptions/2. -/
def Obligations.StatusReadsAnswer : Prop :=
  ∀ (s : State) (k : ChipId), (s.chip k).present = true →
    (∃ t, exec (.statusRead0 k) s = .next t ∧
      Answered (encode s.layout (.statusResp0 k (s.chip k).cr (s.chip k).revision)) 0 s t) ∧
    (∃ fstat fpos n t, fpos < 2 ^ s.layout.fposW ∧ exec (.statusRead1 k) s = .next t ∧
      Answered (encode s.layout (.statusResp1 k fstat fpos)) n s t) ∧
    (∃ fstat fpos n t, fpos < 2 ^ s.layout.fposW ∧ exec (.statusRead2 k) s = .next t ∧
      Answered (encode s.layout (.statusResp2 k fstat fpos)) n s t) ∧
    (∃ fstat fpos hinib pll n t, fpos < 2 ^ s.layout.fposW ∧ exec (.statusRead3 k) s = .next t ∧
      Answered (encode s.layout (.statusResp3 k fstat fpos hinib pll)) n s t)

/-- An event word (44_event_codec R216, R218, R222; 41_packet_framer R150): at the device and at RSP alike, the events
of the valid slots are delivered in slot order, with the 8-bit time 16 times the shared half plus the slot's half, and
nothing else changes. Rests on decisions D10, D11 of the spec, and on the model's notes/assumptions/12. -/
def Obligations.EventWordsDeliver : Prop :=
  ∀ (s : State) (k : ChipId) (m : BitVec 4) (s0 s1 s2 : Slot) (es : List Event),
    es = [s0, s1, s2].filterMap (fun x =>
      if x.valid.toNat = s.layout.evValidPolarity
      then some ⟨BitVec.ofNat 8 (16 * m.toNat + x.tlsb.toNat), x.nadr, x.tbin, true⟩ else none) →
    (s.side = .device → (s.chip k).present = true →
      ∃ t, exec (.event k m s0 s1 s2) s = .next t ∧ OnlyChip k s t ∧
        t.chip k = { s.chip k with evOut := (s.chip k).evOut ++ es }) ∧
    (s.side = .requester →
      exec (.event k m s0 s1 s2) s = .next { s with evDelivered := s.evDelivered ++ es.map fun e => (k, e) })

/-- `SC.CTRL.R`, `SC.TIME.R` and `SC.COR_READ` (46_synapse_control R250, R251, R254, R258; 20_memory R73), also while
a pass runs: one response; the ctrl/status data field has `DONE` and `CMERR` at their offsets and 0 elsewhere; the
timing register is answered as written, and with some value of its width where no word has written it since reset; the
correlation data is some value of its width. Address fields that the sub-command does not use are 0 in the response (the
model's choice where the request's word has others, notes/assumptions/33). The device is unchanged. Rests on decisions
D6, D15, D16 of the spec, and on the model's notes/assumptions/2, 4, 33. -/
def Obligations.SynapseRegisterReadsAnswer : Prop :=
  ∀ (s : State) (k : ChipId), s.layout.wf = true → (s.chip k).present = true →
    (∃ d t, exec (.scCtrlR k) s = .next t ∧ Answered (encode s.layout (.scResp k 0#3 0 0 d)) 0 s t ∧
      d.testBit s.layout.scDoneOff = (s.chip k).done ∧ d.testBit s.layout.scCmerrOff = (s.chip k).cmerr ∧
      ∀ i, i ≠ s.layout.scDoneOff → i ≠ s.layout.scCmerrOff → d.testBit i = false) ∧
    ((s.chip k).sctime.defined = true →
      ∃ t, exec (.scTimeR k) s = .next t ∧
        Answered (encode s.layout (.scResp k 1#3 0 0 (s.chip k).sctime.value)) 0 s t) ∧
    ((s.chip k).sctime.defined = false →
      ∃ d n t, d < 2 ^ s.layout.scData.width ∧ exec (.scTimeR k) s = .next t ∧
        Answered (encode s.layout (.scResp k 1#3 0 0 d)) n s t) ∧
    (∀ col, col < s.layout.scCols →
      ∃ d n t, d < 2 ^ s.layout.scData.width ∧ exec (.scCorRead k col) s = .next t ∧
        Answered (encode s.layout (.scResp k 5#3 0 col d)) n s t)

/-- `SC.PLUT.W` and `SC.SYN.W` (46_synapse_control R252, R253): while no pass runs, the element takes the data; every
other element, and everything else, is unchanged. Rests on decision D15 of the spec, and on the model's
notes/assumptions/21. -/
def Obligations.SynapseWritesStore : Prop :=
  ∀ (s : State) (k : ChipId) (row col data : Nat), (s.chip k).present = true → (s.chip k).busy = false →
    row < s.layout.scRows → col < s.layout.scCols →
    (∃ t, exec (.scPlutW k row col data) s = .next t ∧ OnlyChip k s t ∧
      t.chip k = { s.chip k with plut := (t.chip k).plut } ∧
      (t.chip k).plut.read (synapseIndex s.layout row col) = some data ∧
      ∀ row' col', col' < s.layout.scCols → (row', col') ≠ (row, col) →
        (t.chip k).plut.read (synapseIndex s.layout row' col') =
          (s.chip k).plut.read (synapseIndex s.layout row' col')) ∧
    (∃ t, exec (.scSynW k row col data) s = .next t ∧ OnlyChip k s t ∧
      t.chip k = { s.chip k with syn := (t.chip k).syn } ∧
      (t.chip k).syn.read (synapseIndex s.layout row col) = some data ∧
      ∀ row' col', col' < s.layout.scCols → (row', col') ≠ (row, col) →
        (t.chip k).syn.read (synapseIndex s.layout row' col') =
          (s.chip k).syn.read (synapseIndex s.layout row' col'))

/-- `SC.PLUT.R` and `SC.SYN.R` (46_synapse_control R252 to R254): one response with row and column echoed and the
element; an element not written since reset, or since the last pass for `SYN`, is answered with some value of its
width. The device is unchanged. Rests on decisions D6, D15, D23 of the spec, and on the model's notes/assumptions/2,
3, 21. -/
def Obligations.SynapseReadsAnswer : Prop :=
  ∀ (s : State) (k : ChipId) (row col : Nat), (s.chip k).present = true → (s.chip k).busy = false →
    row < s.layout.scRows → col < s.layout.scCols →
    (∀ d, (s.chip k).plut.read (synapseIndex s.layout row col) = some d →
      ∃ t, exec (.scPlutR k row col) s = .next t ∧ Answered (encode s.layout (.scResp k 2#3 row col d)) 0 s t) ∧
    ((s.chip k).plut.read (synapseIndex s.layout row col) = none →
      ∃ d n t, d < 2 ^ s.layout.scData.width ∧ exec (.scPlutR k row col) s = .next t ∧
        Answered (encode s.layout (.scResp k 2#3 row col d)) n s t) ∧
    (∀ d, (s.chip k).syn.read (synapseIndex s.layout row col) = some d →
      ∃ t, exec (.scSynR k row col) s = .next t ∧ Answered (encode s.layout (.scResp k 3#3 row col d)) 0 s t) ∧
    ((s.chip k).syn.read (synapseIndex s.layout row col) = none →
      ∃ d n t, d < 2 ^ s.layout.scData.width ∧ exec (.scSynR k row col) s = .next t ∧
        Answered (encode s.layout (.scResp k 3#3 row col d)) n s t)

/-- `SC.PCOR`, `SC.PCORC` and `SC.CLOSE` (46_synapse_control R256, R259, R260): while no pass runs, the two process
commands clear `DONE` and set `BUSY`, a close changes nothing at the device; nothing else changes. Rests on decision
D16 of the spec. -/
def Obligations.RowDirectivesAtDevice : Prop :=
  ∀ (s : State) (k : ChipId), (s.chip k).present = true → (s.chip k).busy = false →
    (∃ t, exec (.scPcor k) s = .next t ∧ OnlyChip k s t ∧
      t.chip k = { s.chip k with done := false, busy := true }) ∧
    (∃ t, exec (.scPcorc k) s = .next t ∧ OnlyChip k s t ∧
      t.chip k = { s.chip k with done := false, busy := true }) ∧
    exec (.scClose k) s = .next s

/-- The completion step (46_synapse_control R263, R265): enabled exactly when `BUSY` = 1; it clears `BUSY`, sets
`DONE`, leaves no element of `SYN` known, and changes nothing else. Rests on decision D16 of the spec, and on the
model's notes/assumptions/3. -/
def Obligations.CompletionStepEndsPass : Prop :=
  ∀ (s : State) (k : ChipId) (later : List Agent), s.layout.wf = true → s.schedule = .cor k :: later →
    ((s.chip k).busy = true →
      ∃ t, step s = .next t ∧ OnlyChip k { s with schedule := later } t ∧
        t.chip k = { s.chip k with busy := false, done := true, syn := (t.chip k).syn } ∧
        ∀ a, (t.chip k).syn.read a = none) ∧
    ((s.chip k).busy = false → step s = .next { s with schedule := later })

/-! RSP: what each response returns. -/

/-- `PR.READ.RESP` (43_param_ram R186, R195, R196; 41_packet_framer R150). Outside a verify batch the oldest pending
read is taken off and the triple returned; the echoed address is not compared with the one asked for. Inside a batch
the triple is compared with what the caller expected: a mismatch is recorded with its address, the batch goes on, and
no result is returned yet. Rests on decisions D6, D25 of the spec, and on the model's notes/assumptions/11, 13. -/
def Obligations.ParamResponseReturns : Prop :=
  ∀ (s : State) (k : ChipId) (a b p1 p2 p3 : Nat) (rest : List ReadKind), s.layout.wf = true →
    Instr.wf s.layout (.prReadResp k a p1 p2 p3) = true → (s.tracker (reqOf k)).pending = .param b :: rest →
    ((∀ batch, (s.tracker (reqOf k)).batch = some batch → batch.awaiting = none) →
      ∃ t, exec (.prReadResp k a p1 p2 p3) s = .next t ∧ Returned k rest (.ok (.triple ⟨p1, p2, p3⟩)) s t) ∧
    (∀ batch c e, (s.tracker (reqOf k)).batch = some batch → batch.awaiting = some (c, e) →
      exec (.prReadResp k a p1 p2 p3) s =
        .next (s.setTracker (reqOf k)
          { (s.tracker (reqOf k)).ended rest (.ok (.triple ⟨p1, p2, p3⟩)) with
            batch := some { batch with awaiting := none }
            vfail := (s.tracker (reqOf k)).vfail ++
              (if (⟨p1, p2, p3⟩ : Triple) = e then [] else [⟨c, e, ⟨p1, p2, p3⟩⟩]) }))

/-- `STATUS.RESP.0` to `.3` (42_control_status R165, R166): the view's fields are returned. Whatever selector the word
echoes, the pending selector decides: RSP returns what `decodeStatus` of that selector gives of the word. Rests on
decision D5 of the spec, and on the model's notes/assumptions/13, 17. -/
def Obligations.StatusResponsesReturn : Prop :=
  ∀ (s : State) (k : ChipId) (rest : List ReadKind), s.layout.wf = true →
    (∀ ctrl rev, rev < 2 ^ s.layout.revW → (s.tracker (reqOf k)).pending = .status 0#2 :: rest →
      ∃ t, exec (.statusResp0 k ctrl rev) s = .next t ∧
        Returned k rest (.ok (.status (.control ctrl rev (controlView s.layout ctrl)))) s t) ∧
    (∀ fstat fpos, fpos < 2 ^ s.layout.fposW → (s.tracker (reqOf k)).pending = .status 1#2 :: rest →
      ∃ t, exec (.statusResp1 k fstat fpos) s = .next t ∧
        Returned k rest (.ok (.status (.clkFifo (decodeNibble s.layout fstat) fpos))) s t) ∧
    (∀ fstat fpos, fpos < 2 ^ s.layout.fposW → (s.tracker (reqOf k)).pending = .status 2#2 :: rest →
      ∃ t, exec (.statusResp2 k fstat fpos) s = .next t ∧
        Returned k rest (.ok (.status (.clkbFifo (decodeNibble s.layout fstat) fpos))) s t) ∧
    (∀ fstat fpos hinib pll, fpos < 2 ^ s.layout.fposW → (s.tracker (reqOf k)).pending = .status 3#2 :: rest →
      ∃ t, exec (.statusResp3 k fstat fpos hinib pll) s = .next t ∧
        Returned k rest
          (.ok (.status (.clkhiFifo (decodeNibble s.layout fstat) fpos hinib (pll == 1#1)))) s t) ∧
    (∀ (w : Word) (asked : BitVec 2), get w Field.chipid = k.val → get w Field.eventp = 0 → get w Field.cmd % 2 = 0 →
      (s.tracker (reqOf k)).pending = .status asked :: rest →
      ∃ v t, decodeStatus s.layout asked.toNat w = .ok v ∧ responseWord w s = .next t ∧
        Returned k rest (.ok (.status v)) s t)

/-- The named fields of a decoded control register and the booleans of a fifo nibble, in the reference layout
(42_control_status R166, 30_encoding R104; the positions are the spec's decisions D3 and D5). Rests on decisions D3,
D5 of the spec. -/
def Obligations.ReferenceViews : Prop :=
  (∀ ctrl : BitVec 32, controlView .reference ctrl =
    ⟨ctrl.getLsbD 0, ctrl.getLsbD 1, ctrl.getLsbD 2, ctrl.getLsbD 3, ctrl.getLsbD 4,
      ctrl.extractLsb' 8 8, ctrl.extractLsb' 16 8, ctrl.extractLsb' 24 8⟩) ∧
  (∀ n : BitVec 4, decodeNibble .reference n = ⟨n.getLsbD 0, n.getLsbD 1, n.getLsbD 2, n.getLsbD 3⟩)

/-- `SC.RESP` (46_synapse_control R250, R254, R261, R262, R264). To a read of the timing register, a memory or the
correlation data: the data field is returned, whatever sub-command, row and column are echoed. To a ctrl/status read:
`cmerr` = 1 returns `CommandDecodeError`, poisons the chip's tracker and leaves the row state; otherwise `done` = 1
takes `Processing` to `Idle`, every other row state stays, and the two bits are returned. Rests on decisions D6, D15,
D16, D27 of the spec, and on the model's notes/assumptions/13. -/
def Obligations.SynapseResponseReturns : Prop :=
  ∀ (s : State) (k : ChipId) (sub : BitVec 3) (row col data : Nat) (asked : ScSub) (rest : List ReadKind),
    s.layout.wf = true → Instr.wf s.layout (.scResp k sub row col data) = true →
    (s.tracker (reqOf k)).pending = .synram asked :: rest →
    (asked ≠ .ctrl →
      ∃ t, exec (.scResp k sub row col data) s = .next t ∧ Returned k rest (.ok (.data data)) s t) ∧
    (asked = .ctrl → data.testBit s.layout.scCmerrOff = true →
      exec (.scResp k sub row col data) s =
        .next ((s.setTracker (reqOf k)
          { (s.tracker (reqOf k)).ended rest (.error .commandDecodeError) with poison := true }).report
          (some k.val) (.error .commandDecodeError))) ∧
    (asked = .ctrl → data.testBit s.layout.scCmerrOff = false →
      exec (.scResp k sub row col data) s =
        .next ((s.setTracker (reqOf k)
          { (s.tracker (reqOf k)).ended rest (.ok (.ctrl (data.testBit s.layout.scDoneOff) false)) with
            row := match data.testBit s.layout.scDoneOff, (s.tracker (reqOf k)).row with
              | true, .processing _ => .idle
              | _, r => r }).report
          (some k.val) (.ok (.ctrl (data.testBit s.layout.scDoneOff) false))))

/-- `ERROR.RESP` (47_misc_commands R282; 60_exceptions R312, R314): the oldest pending read ends with
`DeviceErrorFlag`, which records the command with its flag cleared and the raw data field; nothing is decoded; the
tracker loses the entry, and a verify batch that awaited the response ends. Rests on decisions D19, D25 of the spec,
and on the model's notes/assumptions/11, 13. -/
def Obligations.ErrorResponseReturns : Prop :=
  ∀ (s : State) (k : ChipId) (rwb : BitVec 1) (cmd : BitVec 4) (ci : BitVec 53) (kind : ReadKind)
    (rest : List ReadKind), cmd.toNat % 2 = 1 → (s.tracker (reqOf k)).pending = kind :: rest →
    (((∀ a, kind ≠ .param a) ∨ ∀ b, (s.tracker (reqOf k)).batch = some b → b.awaiting = none) →
      ∃ t, exec (.errorResp k rwb cmd ci) s = .next t ∧
        Returned k rest (.error (.deviceErrorFlag (cmd &&& 0xE#4).toNat ci)) s t) ∧
    (∀ a b e, kind = .param a → (s.tracker (reqOf k)).batch = some b → b.awaiting = some e →
      exec (.errorResp k rwb cmd ci) s =
        .next ((s.setTracker (reqOf k)
          { (s.tracker (reqOf k)).ended rest (.error (.deviceErrorFlag (cmd &&& 0xE#4).toNat ci)) with
            batch := some { b with awaiting := none, failed := true } }).report
          (some k.val) (.error (.deviceErrorFlag (cmd &&& 0xE#4).toNat ci))))

/-- A response to one of the five bare commands (47_misc_commands R281): the caller gets the raw data field. Rests on
decision D17 of the spec, and on the model's notes/assumptions/14. -/
def Obligations.BareResponsesReturnRaw : Prop :=
  ∀ (s : State) (k : ChipId) (rwb : BitVec 1) (ci : BitVec 53) (asked : MiscCmd) (rest : List ReadKind),
    s.layout.wf = true → s.side = .requester → (s.tracker (reqOf k)).pending = .misc asked :: rest →
    ∀ i ∈ [Instr.sync k rwb ci, .loopback k rwb ci, .areadout k rwb ci, .evloopback k rwb ci, .dummycmd k rwb ci],
      ∃ t, exec i s = .next t ∧ Returned k rest (.ok (.raw ci)) s t

/-- 47_misc_commands R275: the device gives the five bare commands no meaning, with either value of `cmdrwb`. Rests on
decision D17 of the spec, and on the model's notes/assumptions/14. -/
def Obligations.BareCommandsRefusedAtDevice : Prop :=
  ∀ (s : State) (k : ChipId) (rwb : BitVec 1) (ci : BitVec 53), s.side = .device → (s.chip k).present = true →
    ∀ i ∈ [Instr.sync k rwb ci, .loopback k rwb ci, .areadout k rwb ci, .evloopback k rwb ci, .dummycmd k rwb ci],
      exec i s = .refused .unmodelled

/-- 41_packet_framer R150: a command word from a chip with nothing pending is refused, whatever response it looks
like. Rests on decision D18 of the spec. -/
def Obligations.UnexpectedResponseRefused : Prop :=
  ∀ (s : State) (k : ChipId), (s.tracker (reqOf k)).pending = [] →
    (∀ w : Word, get w Field.chipid = k.val → get w Field.eventp = 0 →
      responseWord w s = .refused .unexpectedResponse) ∧
    (∀ (i : Instr) (kind : ReadKind), s.side = .requester → i.chip = some k → i.answers kind = true →
      exec i s = .refused .unexpectedResponse)

/-! The encode face. -/

/-- R142: every request that builds a packet validates its chip id, 0..15; otherwise it ends with `InvalidChipId`, sends
nothing and changes nothing. (`setDelay` looks at its other two operands first: 45_delay_line R234.) -/
def Obligations.ChipIdsValidated : Prop :=
  ∀ (r : Request) (s : State) (c : Nat), r.target = some c → 15 < c →
    (∀ l v, r = .setDelay l v c → l < 36 ∧ v < 8) →
    runRequest r s = .next (s.report (some c) (.error (.invalidChipId c)))

/-- A parameter-RAM address at or beyond the end of the last bank fails with `AddressOutOfRange` before any word is
built (43_param_ram R183; 60_exceptions R309, R310), in either mode and, by the model's choice of
notes/assumptions/10, with anything in flight; nothing is sent and no state changes. Rests on decision D19 of the
spec, and on the model's notes/assumptions/10. -/
def Obligations.ParamAddressesValidated : Prop :=
  ∀ (s : State) (c a p1 p2 p3 : Nat), c ≤ 15 → s.layout.prTotal ≤ a →
    runRequest (.writeParam c a p1 p2 p3) s = .next (s.report (some c) (.error (.addressOutOfRange a))) ∧
    runRequest (.readParam c a) s = .next (s.report (some c) (.error (.addressOutOfRange a)))

/-- The other validated operands (42_control_status R160, R165, R167; 45_delay_line R234; 60_exceptions R309, R310):
the selector, and the delay line before the delay value before the chip id, in either mode and, by the model's choice
of notes/assumptions/10, with anything in flight; nothing is sent and no state changes. Rests on decisions D19, D24 of
the spec, and on the model's notes/assumptions/10. -/
def Obligations.SelectorAndDelayValidated : Prop :=
  ∀ (s : State) (c : Nat),
    (∀ n, c ≤ 15 → 3 < n →
      runRequest (.buildStatusRead c n) s = .next (s.report (some c) (.error (.unknownSelector n)))) ∧
    (∀ n w, 3 < n →
      runRequest (.decodeStatus n w) s = .next (s.report none (.error (.unknownSelector n)))) ∧
    (∀ l v, 36 ≤ l → runRequest (.setDelay l v c) s = .next (s.report (some c) (.error (.invalidAddress l)))) ∧
    (∀ l v, l < 36 → 8 ≤ v → runRequest (.setDelay l v c) s = .next (s.report (some c) (.error (.valueOverflow v)))) ∧
    (∀ l v, l < 36 → v < 8 → 15 < c →
      runRequest (.setDelay l v c) s = .next (s.report (some c) (.error (.invalidChipId c))))

/-- Opening a row (46_synapse_control R255, R257, R248, R261): a `syn` or `plut` request for a row, reduced to the row
field's width, opens the row from `Idle`, keeps it open when it is open, fails with `RowConflict` when another is open
(nothing sent, the row state and every device unchanged), and is refused during a pass, the last two, by the model's
choice of notes/assumptions/10, also with a read in flight and in address mode. The one word sent is the request's
own, its operands reduced; a read is what `PENDING` gains. Rests on decisions D15, D16 of the spec, and on the model's
notes/assumptions/10. -/
def Obligations.RowOpening : Prop :=
  ∀ (s : State) (c row col data : Nat) (op : ScOp) (r : ReqId) (asked : Nat), r.val = c →
    op.sub = .syn ∨ op.sub = .plut → (s.tracker r).poison = false → asked = row % 2 ^ s.layout.scRow.width →
    (((s.tracker r).row = .idle ∨ (s.tracker r).row = .rowOpen asked) → s.addrMode = false →
      (s.tracker r).pending = [] →
      ∃ t, runRequest (.synapse c op row col data) s = .next t ∧
        t.toDevice = s.toDevice ++ [assemble (scFields s.layout c op.isRead.toNat op.sub.code asked
          (s.layout.scCol.reduce col) (if op.isRead then 0 else s.layout.scData.reduce data))] ∧
        (t.tracker r).row = .rowOpen asked ∧
        (t.tracker r).pending = (if op.isRead then [.synram op.sub] else []) ∧ t.chips = s.chips ∧ ∀ j, j ≠ r → t.tracker j = s.tracker j) ∧
    (∀ other, (s.tracker r).row = .rowOpen other → other ≠ asked →
      ∃ t, runRequest (.synapse c op row col data) s = .next t ∧
        t = { s with
              overflowLog := t.overflowLog
              results := s.results ++ [(some c, .error (.rowConflict other asked))] }) ∧
    (∀ other, (s.tracker r).row = .processing other →
      runRequest (.synapse c op row col data) s = .refused .unspecifiedTransition)

/-- The other entries of the transition table of 46_synapse_control R261 (R256, R259, R260, R262, R264): a close takes
`RowOpen` to `Idle`, the two process commands take it to `Processing`, all three are refused from `Idle` and during a
pass; ctrl/status, timing and correlation reads are sent in every row state and leave it. For a poisoned chip every
synapse-control request is refused. These refusals hold, by the model's choice of notes/assumptions/10, also with a
read in flight and in address mode. The one word sent is the request's own, its operands reduced; a read is what
`PENDING` gains. Rests on decisions D15, D16, D27 of the spec, and on the model's notes/assumptions/10. -/
def Obligations.RowDirectivesAtIssue : Prop :=
  ∀ (s : State) (c row col data : Nat) (op : ScOp) (r : ReqId), r.val = c →
    ((s.tracker r).poison = true → runRequest (.synapse c op row col data) s = .refused .poisoned) ∧
    ((s.tracker r).poison = false → op.sub ∈ [ScSub.close, .pcor, .pcorc] →
      (∀ q, (s.tracker r).row ≠ .rowOpen q) →
      runRequest (.synapse c op row col data) s = .refused .unspecifiedTransition) ∧
    ((s.tracker r).poison = false → s.addrMode = false → (s.tracker r).pending = [] →
      (∀ q, (s.tracker r).row = .rowOpen q → op.sub ∈ [ScSub.close, .pcor, .pcorc] →
        ∃ t, runRequest (.synapse c op row col data) s = .next t ∧
          t.toDevice = s.toDevice ++ [assemble (scFields s.layout c 0 op.sub.code 0 0 0)] ∧
          (t.tracker r).pending = [] ∧ (t.tracker r).row = if op.sub = .close then .idle else .processing q) ∧
      (op.sub ∈ [ScSub.ctrl, .time, .corRead] →
        ∃ t, runRequest (.synapse c op row col data) s = .next t ∧
          t.toDevice = s.toDevice ++ [assemble (scFields s.layout c op.isRead.toNat op.sub.code 0
            (if op = .corRead then s.layout.scCol.reduce col else 0)
            (if op = .timeW then s.layout.scData.reduce data else 0))] ∧
          (t.tracker r).pending = (if op.isRead then [.synram op.sub] else []) ∧
          (t.tracker r).row = (s.tracker r).row))

/-- A request changes no device and sends at most one word (41_packet_framer R149; 45_delay_line R237;
70_reset_and_hazards R343): a word is sent only in the mode the request needs and with nothing in flight for its chip,
it carries the chip id the request names, and the tracker of no other chip changes. Rests on decision D13 of the spec,
and on the model's notes/assumptions/10, 16. -/
def Obligations.RequestSendsAtMostOneWord : Prop :=
  ∀ (r : Request) (s t : State), s.layout.wf = true → runRequest r s = .next t →
    t.chips = s.chips ∧ t.addrMode = s.addrMode ∧ t.toRequester = s.toRequester ∧ t.draws = s.draws ∧
    ((t.toDevice = s.toDevice ∧ t.trackers = s.trackers) ∨
      ∃ (w : Word) (c : ReqId), r.target = some c.val ∧ t.toDevice = s.toDevice ++ [w] ∧
        get w Field.chipid = c.val ∧ s.addrMode = r.addressMode ∧ (s.tracker c).pending = [] ∧
        (t.tracker c).pending.length ≤ 1 ∧ ∀ j, j ≠ c → t.tracker j = s.tracker j)

/-- DECODE AND ENCODE AGREE across the two faces (30_encoding R105, R109, R115, R123; 41_packet_framer R149;
42_control_status R160; 43_param_ram R183, R186; 45_delay_line R234; 46_synapse_control R248; 47_misc_commands R276):
whatever word a request sends, the device's decoder reads from it, in the mode that holds, exactly the instruction the
request stands for, its operands reduced to their fields; `PENDING` of the chip gains the kind of the read, and nothing
for a write. A parameter-RAM address and a delay line in the word always name an element. A request for chip id 15
sends an empty word. Rests on decisions D4, D5, D8, D13, D15, D17, D18, D20 of the spec, and on the model's
notes/assumptions/16, 22. -/
def Obligations.SentWordsHaveAMeaning : Prop :=
  ∀ (r : Request) (s t : State) (w : Word) (c : ReqId), s.layout.wf = true → r.target = some c.val →
    runRequest r s = .next t → t.toDevice = s.toDevice ++ [w] →
    (t.tracker c).pending = (s.tracker c).pending ++ r.reads.toList ∧
    (c.val = 15 → decodeDevice s.layout s.addrMode w = .ok .empty) ∧
    (∀ k : ChipId, c = reqOf k → ∃ i, r.sends s.layout k = some i ∧ decodeDevice s.layout s.addrMode w = .ok i ∧
      (∀ a p1 p2 p3, i = .prWrite k a p1 p2 p3 → a < s.layout.prTotal) ∧
      (∀ a, i = .prRead k a → a < s.layout.prTotal) ∧
      (∀ a v, i = .dlSet k a v → a < 36))

/-- `packEvents` (44_event_codec R213, R212; 41_packet_framer R149; 60_exceptions R309, R310) refuses more than three
records, and valid records of different time MSB, in either mode and, by the model's choice of notes/assumptions/10, also
with a read in flight for the chip, where R304 and R343 give ConcurrentIssue too; otherwise, in packet mode with nothing
in flight, it sends the event word. Rests on decisions D12, D19 of the spec, and on the model's notes/assumptions/10. -/
def Obligations.PackEventsRefusals : Prop :=
  ∀ (s : State) (c : Nat) (r : ReqId) (es : List EventRequest), r.val = c →
    (3 < es.length → runRequest (.packEvents c es) s = .refused .tooManyEvents) ∧
    (es.length ≤ 3 → (∃ a ∈ es, ∃ b ∈ es, a.valid = true ∧ b.valid = true ∧
        a.absoluteTime.toNat / 16 ≠ b.absoluteTime.toNat / 16) →
      runRequest (.packEvents c es) s = .refused .timeMsbMismatch) ∧
    (es.length ≤ 3 → (∀ a ∈ es, ∀ b ∈ es, a.valid = true → b.valid = true →
        a.absoluteTime.toNat / 16 = b.absoluteTime.toNat / 16) →
      s.addrMode = false → (s.tracker r).pending = [] →
      ∃ t, runRequest (.packEvents c es) s = .next t ∧
        t.toDevice = s.toDevice ++ [assemble (eventFields s.layout c es)])

/-- THE CALLERS' BLOCKING CALLS: a read, the verify batch and the poll (41_packet_framer R150; 43_param_ram R186,
R196; 46_synapse_control R248, R262; 60_exceptions R305, R317; 70_reset_and_hazards R343; the spec's decision D25 that
an error of a read ends the batch). A request that sends a read leaves its caller waiting for the answer, until a
response ends that very read and for ever if none does; any other request is over with its step. The batch's caller
waits while the batch's read is in flight; then the next entry's address is read, where no other read of the chip is
in flight, or the batch ends with `AddressOutOfRange`; after the last entry it ends with the failures recorded, none
meaning that every address verified; after an error of a read it ends with nothing more to say. The poll waits for its
ctrl/status read, goes on while the answer shows `done` = 0, and ends on `done` = 1, on an error of the read, and on a
chip id that does not fit. Rests on decisions D25, D31 of the spec, and on the model's notes/assumptions/10, 11, 29,
30. -/
def Obligations.VerifyBatchSteps : Prop :=
  (∀ (s t : State) (caller : Nat) (request : Request), runRequest request s = .next t →
    (∀ c : ReqId, request.target = some c.val → request.reads ≠ none → t.toDevice ≠ s.toDevice →
      runAction caller (.request request) s =
        .next { t with scripts := s.scripts.set caller (.await c (s.tracker c).readsSent :: s.script caller) } ∧
      (t.tracker c).readsSent = (s.tracker c).readsSent + 1) ∧
    (request.reads = none ∨ t.toDevice = s.toDevice → runAction caller (.request request) s = .next t)) ∧
  (∀ (s : State) (caller read : Nat) (c : ReqId),
    (s.waits caller (.await c read) = true ↔ ∀ e, (read, e) ∉ (s.tracker c).answers) ∧
    (s.waits caller (.pollTest c read) = true ↔ ∀ e, (read, e) ∉ (s.tracker c).answers) ∧
    runAction caller (.await c read) s = .next s) ∧
  (∀ (s : State) (r : ReqId) (b : Batch), (s.tracker r).batch = some b →
    (s.waits b.caller (.verifyNext r) = true ↔ b.awaiting ≠ none) ∧
    (b.failed = true →
      runAction b.caller (.verifyNext r) s = .next (s.setTracker r { s.tracker r with batch := none })) ∧
    (b.failed = false → b.todo = [] →
      runAction b.caller (.verifyNext r) s =
        .next ((s.setTracker r { s.tracker r with batch := none }).report (some r.val)
          (.ok (.verified (s.tracker r).vfail)))) ∧
    (∀ a e rest, b.failed = false → b.todo = (a, e) :: rest →
      (s.layout.prTotal ≤ a →
        runAction b.caller (.verifyNext r) s =
          .next ((s.setTracker r { s.tracker r with batch := none }).report (some r.val)
            (.error (.addressOutOfRange a)))) ∧
      (a < s.layout.prTotal → s.addrMode = false → (s.tracker r).pending ≠ [] →
        runAction b.caller (.verifyNext r) s = .refused .concurrentIssue) ∧
      (a < s.layout.prTotal → s.layout.wf = true → s.addrMode = false → (s.tracker r).pending = [] →
        runAction b.caller (.verifyNext r) s =
          .next { s.setTracker r
              { s.tracker r with
                pending := [.param a]
                batch := some { b with todo := rest, awaiting := some (a, e) }
                readsSent := (s.tracker r).readsSent + 1 } with
            scripts := s.scripts.set b.caller (.verifyNext r :: s.script b.caller)
            toDevice := s.toDevice ++ [assemble (prReadFields s.layout r.val a)] }))) ∧
  (∀ (s : State) (caller c : Nat),
    (∀ (t : State) (r : ReqId), r.val = c → runRequest (.synapse c .ctrlR 0 0 0) s = .next t →
      runAction caller (.poll c) s =
        .next { t with scripts := s.scripts.set caller (.pollTest r (s.tracker r).readsSent :: s.script caller) }) ∧
    (15 < c → runAction caller (.poll c) s = .next (s.report (some c) (.error (.invalidChipId c))))) ∧
  (∀ (s : State) (caller read : Nat) (r : ReqId) (result : Result), (s.tracker r).answerTo read = some result →
    (∀ cmerr, result = .ok (.ctrl false cmerr) →
      runAction caller (.pollTest r read) s = .next (s.expand caller [.poll r.val])) ∧
    ((∃ cmerr, result = .ok (.ctrl true cmerr)) ∨ (∃ e, result = .error e) →
      runAction caller (.pollTest r read) s = .next s))

/-- `FOVF` (10_state R49; 40_bitfield_codec R131, R133; 60_exceptions R292; 30_encoding R123): no step takes an entry
out of the overflow log but ENV's reset, by the environment itself or as a caller's script writes it; a request whose
word is sent appends one entry for each operand too wide for its field, in the order of the inserts, and nothing else;
an `insert` appends its entry exactly when the value does not fit. An operand that a synapse-control sub-command does
not use is not logged (the model's choice, notes/assumptions/31). Rests on decisions D21, D29 of the spec, and on the
model's notes/assumptions/9, 31. -/
def Obligations.OverflowLogIsSticky : Prop :=
  (∀ (a : Agent) (s t : State), runAgent a s = .next t →
    (∃ os, t.overflowLog = s.overflowLog ++ os) ∨ a = .env .reset ∨
      ∃ caller, a = .req caller ∧ (s.script caller).head? = some (.env .reset)) ∧
  (∀ (r : Request) (s t : State), s.layout.wf = true → runRequest r s = .next t → t.toDevice ≠ s.toDevice →
    t.overflowLog = s.overflowLog ++ r.truncations s.layout) ∧
  (∀ (w : Word) (p n v : Nat) (s : State), p + n ≤ 64 →
    ∃ t, runRequest (.insert w p n v) s = .next t ∧
      t.overflowLog = s.overflowLog ++ (if v < 2 ^ n then [] else [⟨⟨p, n⟩, v, v % 2 ^ n⟩]))

/-! The codec, the framer, the event codec, the address map. -/

/-- R134: for every word, every field inside it and every value, extracting the field just inserted gives the value
modulo two to the width. -/
def Obligations.CodecRoundTrip : Prop :=
  ∀ (w : Word) (pos width v : Nat), pos + width ≤ 64 →
    ∃ w' log, codecInsert w pos width v = .ok (w', log) ∧ codecExtract w' pos width = .ok (v % 2 ^ width)

/-- R132: `extract` and `insert` fail with `OutOfRange` exactly where `pos + width` exceeds 64, in unbounded
arithmetic. -/
def Obligations.CodecOutOfRange : Prop :=
  ∀ (w : Word) (pos width v : Nat),
    (codecExtract w pos width = .error (.outOfRange pos width) ↔ 64 < pos + width) ∧
    (codecInsert w pos width v = .error (.outOfRange pos width) ↔ 64 < pos + width)

/-- The further laws the spec derives (40_bitfield_codec R135 (a) to (g)), over fields inside the word, and the log of
an insert (R131, R133): empty exactly when the value fits the field. Rests on decision D29 of the spec. -/
def Obligations.CodecLaws : Prop :=
  ∀ (w : Word) (p n p' n' a b : Nat), p + n ≤ 64 → p' + n' ≤ 64 →
    (∀ i, i < p ∨ p + n ≤ i → (putBits w p n a).getLsbD i = w.getLsbD i) ∧
    ((p + n ≤ p' ∨ p' + n' ≤ p) →
      bits (putBits w p n a) p' n' = bits w p' n' ∧
      putBits (putBits w p n a) p' n' b = putBits (putBits w p' n' b) p n a) ∧
    putBits (putBits w p n a) p n b = putBits w p n b ∧
    putBits w p n (bits w p n) = w ∧
    bits w p n < 2 ^ n ∧
    (∀ m, m ≤ n → bits w p n = bits w (p + m) (n - m) * 2 ^ m + bits w p m) ∧
    bits w 0 64 = w.toNat ∧ putBits w 0 64 a = BitVec.ofNat 64 a ∧
    ∃ log, codecInsert w p n a = .ok (putBits w p n a, log) ∧ (log = [] ↔ a < 2 ^ n)

/-- The framer's round trips (41_packet_framer R144: the first is the source's law, the others the spec derives):
classifying the packet built gives chip id, flag and payload back, for every chip id 0..15 and 58-bit payload; building
what a word classifies as gives the word with its spare bit cleared, which is the word itself exactly when that bit is
0; words that differ only there classify alike. -/
def Obligations.FramerRoundTrips : Prop :=
  (∀ (c payload : Nat) (isEvent : Bool), c ≤ 15 → payload < 2 ^ 58 →
    ∃ w log, build c isEvent payload = .ok (w, log) ∧
      classify w = ⟨BitVec.ofNat 4 c, isEvent, BitVec.ofNat 58 payload⟩) ∧
  (∀ w : Word, ∃ log,
    build (classify w).chipId.toNat (classify w).isEvent (classify w).payload.toNat = .ok (w &&& ~~~(2#64), log)) ∧
  (∀ w : Word, w &&& ~~~(2#64) = w ↔ w.getLsbD 1 = false) ∧
  (∀ w w' : Word, w &&& ~~~(2#64) = w' &&& ~~~(2#64) → classify w = classify w')

/-- The event round trip (44_event_codec R217, R212, R216): for at most three records whose valid members share their
time MSB, and any real chip id, unpacking the packed word gives the valid records in order, address and bin reduced to
their widths. Rests on decisions D10, D11 of the spec. -/
def Obligations.EventRoundTrip : Prop :=
  ∀ (L : Layout) (c : Nat) (es : List EventRequest), L.wf = true → c < 15 → es.length ≤ 3 → msbAgree es = true →
    unpackEvents L (assemble (eventFields L c es)) =
      (es.filter (·.valid)).map fun e =>
        ⟨e.absoluteTime, BitVec.ofNat 9 e.neuronAddress, BitVec.ofNat 4 e.timeBin, true⟩

/-- `EV.COMPRESS` (44_event_codec R219): no group is refused by `packEvents`, none is empty, and unpacking the groups'
words one after another gives the valid records of the whole sequence, in order. Rests on decision D12 of the spec,
and on the model's notes/assumptions/23. -/
def Obligations.CompressRoundTrip : Prop :=
  ∀ (L : Layout) (c : Nat) (es : List EventRequest), L.wf = true → c < 15 →
    (∀ g ∈ compressGroups es, g ≠ [] ∧ g.length ≤ 3 ∧ msbAgree g = true) ∧
    (compressGroups es).flatMap (fun g => unpackEvents L (assemble (eventFields L c g))) =
      (es.filter (·.valid)).map fun e =>
        ⟨e.absoluteTime, BitVec.ofNat 9 e.neuronAddress, BitVec.ofNat 4 e.timeBin, true⟩

/-- The bank table (20_memory R74, R75, R77; 00_scope R8): the eight banks in their fixed order; every address below the
total lies in exactly the bank that starts at or below it and ends above it, with the offset from the bank's start;
the inverse forms the address again; at and beyond the total there is no bank. With the reference sizes the starts are
those of R75, and the examples of R77 hold. Rests on decision D7 of the spec. -/
def Obligations.BankResolution : Prop :=
  (∀ (L : Layout) (a : Nat), L.wf = true →
    (a < L.prTotal → ∃ k o, bankOf L a = some (k, o) ∧ bankStart L k.index ≤ a ∧ a < bankStart L (k.index + 1) ∧
      o = a - bankStart L k.index ∧ addressOf L k o = some a) ∧
    (L.prTotal ≤ a → bankOf L a = none) ∧
    (∀ k o, addressOf L k o = some a → bankOf L a = some (k, o))) ∧
  Bank.all.map Bank.index = List.range 8 ∧
  (List.range 9).map (bankStart .reference) = [0, 2048, 4096, 5632, 7168, 7296, 7424, 7440, 7456] ∧
  bankOf .reference 5 = some (.synapseLeft, 5) ∧ bankOf .reference 4096 = some (.neuronLeft, 0) ∧
  bankOf .reference 7455 = some (.outputAmp, 15) ∧ bankOf .reference 7456 = none

/-! Reset, and what holds of every step. -/

/-- The machine after reset is a legal state (10_state R55, R31; 46_synapse_control R266 (e)). Rests on decision D22
of the spec, and on the model's notes/assumptions/1, 4, 5, 6. -/
def Obligations.ResetIsLegal : Prop := State.inv State.reset = true

/-- AN INVARIANT THAT EVERY STEP KEEPS: from every legal state, whatever agent steps and whatever words, requests and
actions wait, a step that gives a next state gives a legal one: reserved control bits 0 (10_state R31), `BUSY` implies
not `DONE` (46_synapse_control R266 (e)), at most one read in flight per chip (70_reset_and_hazards R343), memories in
canonical form with every element inside its array and of its width (20_memory R60, R66), registers of their widths
(10_state R39, R41, R44, R46), and no read answered before it is sent (20_memory R82). Rests on decisions D4, D16, D22
of the spec, and on the model's notes/assumptions/1, 11, 30. -/
def Obligations.StepKeepsLegal : Prop :=
  ∀ s t : State, s.inv = true → step s = .next t → t.inv = true

/-- The reset value of `CR` (10_state R33, R31; 70_reset_and_hazards R331): in every well-formed layout it has the three
reset fields all ones, the five enables 0 and every other bit 0, and is the OR of the three masks. In the reference
layout (decision D3) it is 0xFFFFFF00, and the machine after reset, which the model puts in that layout
(notes/assumptions/1), has it in every chip. Rests on decisions D3, D4 of the spec, and on the model's
notes/assumptions/1. -/
def Obligations.ResetControlRegister : Prop :=
  (∀ L : Layout, L.wf = true →
    (∀ f ∈ [ControlField.einRst, .einbRst, .eoutRst], get (crReset L) (L.crField f) = 0xFF) ∧
    (∀ f ∈ [ControlField.anaclkEn, .anaclkhiEn, .pramEn, .errOutEn, .earlydebug],
      get (crReset L) (L.crField f) = 0) ∧
    crReservedZero L (crReset L) = true ∧
    crReset L = (0xFF#32 <<< L.crEinRstPos) ||| (0xFF#32 <<< L.crEinbRstPos) ||| (0xFF#32 <<< L.crEoutRstPos)) ∧
  crReset .reference = 0xFFFFFF00#32 ∧
  (∀ k : ChipId, (State.reset.chip k).cr = 0xFFFFFF00#32)

/-- The reset step of ENV (70_reset_and_hazards R330, R334, R335) always runs: in one step every device's control
register, bits and contents, every tracker, the log, both FIFOs and the mode pin; the straps, the revisions, the layout
and what was delivered, at every device, at the requester's side and to the callers, are not changed. Contents without
a reset value are unknown: a later read of one is a free value. A verify batch that awaits a read is lost with it, one
between two reads goes on, and the numbering of the reads goes on, so that a read the reset has taken is never answered.
Rests on decision D22 of the spec, and on the model's notes/assumptions/3, 4, 12, 29, 30. -/
def Obligations.ResetStepLeaves : Prop :=
  ∀ s : State, ∃ t, runEnv .reset s = .next t ∧
    (∀ k : ChipId, (t.chip k).cr = crReset s.layout ∧ (t.chip k).done = false ∧ (t.chip k).cmerr = false ∧
      (t.chip k).busy = false ∧ (∀ a, (t.chip k).pram.read a = none ∧ (t.chip k).lut.read a = none ∧
        (t.chip k).dl.read a = none ∧ (t.chip k).syn.read a = none ∧ (t.chip k).plut.read a = none) ∧
      (t.chip k).period.defined = false ∧ (t.chip k).pcount.defined = false ∧ (t.chip k).sctime.defined = false ∧
      (t.chip k).present = (s.chip k).present ∧ (t.chip k).revision = (s.chip k).revision ∧
      (t.chip k).evOut = (s.chip k).evOut) ∧
    (∀ r : ReqId, (t.tracker r).row = .idle ∧ (t.tracker r).pending = [] ∧ (t.tracker r).poison = false ∧
      (t.tracker r).prfsm = .disabled ∧ (t.tracker r).vfail = [] ∧
      (t.tracker r).readsSent = (s.tracker r).readsSent ∧ (t.tracker r).answers = (s.tracker r).answers ∧
      ∀ b, (s.tracker r).batch = some b → (t.tracker r).batch = if b.awaiting = none then some b else none) ∧
    t.fovf = false ∧ t.toDevice = [] ∧ t.toRequester = [] ∧ t.addrMode = false ∧ t.layout = s.layout ∧
    t.results = s.results ∧ t.evDelivered = s.evDelivered ∧ t.scripts = s.scripts

/-- The source's reset property as the spec derives it (42_control_status R168, 70_reset_and_hazards R333): straight
after the reset step, a read of status view 0 is answered by one word, whose decoding shows the reset fields 0xFF, the
five enables 0, and the revision beside them. Rests on decisions D5, D22 of the spec, and on the model's
notes/assumptions/6. -/
def Obligations.StatusAfterReset : Prop :=
  ∀ (s t : State) (k : ChipId), s.layout.wf = true → (s.chip k).present = true →
    (s.chip k).revision < 2 ^ s.layout.revW → runEnv .reset s = .next t →
    ∃ u w, exec (.statusRead0 k) t = .next u ∧ u.toRequester = [w] ∧
      decodeStatus s.layout 0 w =
        .ok (.control (crReset s.layout) (s.chip k).revision
          ⟨false, false, false, false, false, 0xFF#8, 0xFF#8, 0xFF#8⟩)

/-- Chips share nothing (10_state R54, 60_exceptions R324, R325): an instruction changes no device and no tracker of a
chip other than its own, and what it does to its own chip does not depend on the others. Rests on decision D13 of the
spec, and on the model's notes/assumptions/2. -/
def Obligations.ChipsAreIndependent : Prop :=
  ∀ (i : Instr) (k : ChipId) (s t : State), i.chip = some k → exec i s = .next t →
    (∀ j, j ≠ k → t.chip j = s.chip j) ∧ (∀ r, r ≠ reqOf k → t.tracker r = s.tracker r) ∧
    (∀ (j : ChipId) (c : Chip), j ≠ k →
      ∃ u, exec i (s.setChip j c) = .next u ∧ u.chip k = t.chip k ∧ u.tracker (reqOf k) = t.tracker (reqOf k) ∧
        u.toRequester = t.toRequester ∧ u.results = t.results)

/-- No word changes a mode, a strap or `CMERR` (10_state R26, R52; 60_exceptions R319): whatever an instruction does,
the mode pin, every chip's strap, revision and `CMERR`, the overflow log and the words toward the device are as
before. Rests on decisions D13, D27 of the spec. -/
def Obligations.WordsKeepModeAndCmerr : Prop :=
  ∀ (i : Instr) (s t : State), exec i s = .next t →
    t.addrMode = s.addrMode ∧ t.layout = s.layout ∧ t.overflowLog = s.overflowLog ∧ t.toDevice = s.toDevice ∧
    ∀ k, (t.chip k).cmerr = (s.chip k).cmerr ∧ (t.chip k).present = (s.chip k).present ∧
      (t.chip k).revision = (s.chip k).revision

/-- The write-read law (43_param_ram R194, 20_memory R81): after a `PR.WRITE` to an entry, however many words for any
chip follow, none of them another write of that entry, `PR.READ` of it is answered with the triple written. Rests on
decisions D8, D23 of the spec. -/
def Obligations.ParamWriteReadLaw : Prop :=
  ∀ (s t u : State) (k : ChipId) (a p1 p2 p3 : Nat) (between : List Instr), (s.chip k).present = true →
    a < s.layout.prTotal → noParamWrite k a between = true →
    exec (.prWrite k a p1 p2 p3) s = .next t → runInstrs between t = .next u →
    ∃ v, exec (.prRead k a) u = .next v ∧ Answered (encode s.layout (.prReadResp k a p1 p2 p3)) 0 u v

/-- ENV moves the mode pin only over a drained link (45_delay_line R239, 70_reset_and_hazards R348): with no word toward
the devices and nothing in flight for any chip on the link it takes the new value, and any other change is refused. A
read sent to an id that no instance has does not count. Rests on decision D13 of the spec. -/
def Obligations.ModeChangeNeedsDrainedLink : Prop :=
  ∀ (s : State) (x : Bool),
    ((s.toDevice = [] ∧ ∀ k : ChipId, (s.chip k).present = true → (s.tracker (reqOf k)).pending = []) →
      runEnv (.addrMode x) s = .next { s with addrMode := x }) ∧
    ((s.toDevice ≠ [] ∨ ∃ k : ChipId, (s.chip k).present = true ∧ (s.tracker (reqOf k)).pending ≠ []) →
      runEnv (.addrMode x) s = .refused .modeViolation)

/-- The idle sequence at the device (43_param_ram R198): a `CTRL.WRITE` that names `pram_en` = 0 and a `PR.COUNT` of
0, in either order, leave the update FSM idle. Rests on decision D9 of the spec, and on the model's
notes/assumptions/4. -/
def Obligations.IdleInEitherOrder : Prop :=
  ∀ (s : State) (k : ChipId) (val : BitVec 32) (fmask : BitVec 8), s.layout.wf = true → (s.chip k).present = true →
    fmask.getLsbD (ControlField.index .pramEn) = true → get val (s.layout.crField .pramEn) = 0 →
    (∃ t, runInstrs [.ctrlWrite k val fmask, .prCount k 0] s = .next t ∧ (t.chip k).fsmIdle s.layout = true) ∧
    (∃ t, runInstrs [.prCount k 0, .ctrlWrite k val fmask] s = .next t ∧ (t.chip k).fsmIdle s.layout = true)
end

