-- ==== Sys2Proof/Laws/State.lean ====
section
/-! SUPPORT. One lemma per field per named update of `State`, and what the accessors of chips and trackers read after
each update. -/

namespace Sys2Proof.Machine

/-! `setChip`. -/

@[simp] theorem State.setChip_layout (s : State) (k : ChipId) (c : Chip) : (s.setChip k c).layout = s.layout := rfl
@[simp] theorem State.setChip_addrMode (s : State) (k : ChipId) (c : Chip) : (s.setChip k c).addrMode = s.addrMode := rfl
@[simp] theorem State.setChip_chips (s : State) (k : ChipId) (c : Chip) : (s.setChip k c).chips = s.chips.set k c := rfl
@[simp] theorem State.setChip_trackers (s : State) (k : ChipId) (c : Chip) : (s.setChip k c).trackers = s.trackers := rfl
@[simp] theorem State.setChip_overflowLog (s : State) (k : ChipId) (c : Chip) : (s.setChip k c).overflowLog = s.overflowLog := rfl
@[simp] theorem State.setChip_toDevice (s : State) (k : ChipId) (c : Chip) : (s.setChip k c).toDevice = s.toDevice := rfl
@[simp] theorem State.setChip_toRequester (s : State) (k : ChipId) (c : Chip) : (s.setChip k c).toRequester = s.toRequester := rfl
@[simp] theorem State.setChip_evDelivered (s : State) (k : ChipId) (c : Chip) : (s.setChip k c).evDelivered = s.evDelivered := rfl
@[simp] theorem State.setChip_results (s : State) (k : ChipId) (c : Chip) : (s.setChip k c).results = s.results := rfl
@[simp] theorem State.setChip_draws (s : State) (k : ChipId) (c : Chip) : (s.setChip k c).draws = s.draws := rfl
@[simp] theorem State.setChip_side (s : State) (k : ChipId) (c : Chip) : (s.setChip k c).side = s.side := rfl
@[simp] theorem State.setChip_scripts (s : State) (k : ChipId) (c : Chip) : (s.setChip k c).scripts = s.scripts := rfl
@[simp] theorem State.setChip_schedule (s : State) (k : ChipId) (c : Chip) : (s.setChip k c).schedule = s.schedule := rfl
@[simp] theorem State.setChip_tracker (s : State) (k : ChipId) (c : Chip) (j : ReqId) : (s.setChip k c).tracker j = s.tracker j := rfl

/-! `setTracker`. -/

@[simp] theorem State.setTracker_layout (s : State) (r : ReqId) (t : Tracker) : (s.setTracker r t).layout = s.layout := rfl
@[simp] theorem State.setTracker_addrMode (s : State) (r : ReqId) (t : Tracker) : (s.setTracker r t).addrMode = s.addrMode := rfl
@[simp] theorem State.setTracker_chips (s : State) (r : ReqId) (t : Tracker) : (s.setTracker r t).chips = s.chips := rfl
@[simp] theorem State.setTracker_trackers (s : State) (r : ReqId) (t : Tracker) : (s.setTracker r t).trackers = s.trackers.set r t := rfl
@[simp] theorem State.setTracker_overflowLog (s : State) (r : ReqId) (t : Tracker) : (s.setTracker r t).overflowLog = s.overflowLog := rfl
@[simp] theorem State.setTracker_toDevice (s : State) (r : ReqId) (t : Tracker) : (s.setTracker r t).toDevice = s.toDevice := rfl
@[simp] theorem State.setTracker_toRequester (s : State) (r : ReqId) (t : Tracker) : (s.setTracker r t).toRequester = s.toRequester := rfl
@[simp] theorem State.setTracker_evDelivered (s : State) (r : ReqId) (t : Tracker) : (s.setTracker r t).evDelivered = s.evDelivered := rfl
@[simp] theorem State.setTracker_results (s : State) (r : ReqId) (t : Tracker) : (s.setTracker r t).results = s.results := rfl
@[simp] theorem State.setTracker_draws (s : State) (r : ReqId) (t : Tracker) : (s.setTracker r t).draws = s.draws := rfl
@[simp] theorem State.setTracker_side (s : State) (r : ReqId) (t : Tracker) : (s.setTracker r t).side = s.side := rfl
@[simp] theorem State.setTracker_scripts (s : State) (r : ReqId) (t : Tracker) : (s.setTracker r t).scripts = s.scripts := rfl
@[simp] theorem State.setTracker_schedule (s : State) (r : ReqId) (t : Tracker) : (s.setTracker r t).schedule = s.schedule := rfl
@[simp] theorem State.setTracker_chip (s : State) (r : ReqId) (t : Tracker) (j : ChipId) : (s.setTracker r t).chip j = s.chip j := rfl

/-! `took`. -/

@[simp] theorem State.took_layout (s : State) (n : Nat) : (s.took n).layout = s.layout := rfl
@[simp] theorem State.took_addrMode (s : State) (n : Nat) : (s.took n).addrMode = s.addrMode := rfl
@[simp] theorem State.took_chips (s : State) (n : Nat) : (s.took n).chips = s.chips := rfl
@[simp] theorem State.took_trackers (s : State) (n : Nat) : (s.took n).trackers = s.trackers := rfl
@[simp] theorem State.took_overflowLog (s : State) (n : Nat) : (s.took n).overflowLog = s.overflowLog := rfl
@[simp] theorem State.took_toDevice (s : State) (n : Nat) : (s.took n).toDevice = s.toDevice := rfl
@[simp] theorem State.took_toRequester (s : State) (n : Nat) : (s.took n).toRequester = s.toRequester := rfl
@[simp] theorem State.took_evDelivered (s : State) (n : Nat) : (s.took n).evDelivered = s.evDelivered := rfl
@[simp] theorem State.took_results (s : State) (n : Nat) : (s.took n).results = s.results := rfl
@[simp] theorem State.took_draws (s : State) (n : Nat) : (s.took n).draws = s.draws + n := rfl
@[simp] theorem State.took_side (s : State) (n : Nat) : (s.took n).side = s.side := rfl
@[simp] theorem State.took_scripts (s : State) (n : Nat) : (s.took n).scripts = s.scripts := rfl
@[simp] theorem State.took_schedule (s : State) (n : Nat) : (s.took n).schedule = s.schedule := rfl
@[simp] theorem State.took_chip (s : State) (n : Nat) (j : ChipId) : (s.took n).chip j = s.chip j := rfl
@[simp] theorem State.took_tracker (s : State) (n : Nat) (j : ReqId) : (s.took n).tracker j = s.tracker j := rfl

/-! `send`. -/

@[simp] theorem State.send_layout (s : State) (w : Word) : (s.send w).layout = s.layout := rfl
@[simp] theorem State.send_addrMode (s : State) (w : Word) : (s.send w).addrMode = s.addrMode := rfl
@[simp] theorem State.send_chips (s : State) (w : Word) : (s.send w).chips = s.chips := rfl
@[simp] theorem State.send_trackers (s : State) (w : Word) : (s.send w).trackers = s.trackers := rfl
@[simp] theorem State.send_overflowLog (s : State) (w : Word) : (s.send w).overflowLog = s.overflowLog := rfl
@[simp] theorem State.send_toDevice (s : State) (w : Word) : (s.send w).toDevice = s.toDevice ++ [w] := rfl
@[simp] theorem State.send_toRequester (s : State) (w : Word) : (s.send w).toRequester = s.toRequester := rfl
@[simp] theorem State.send_evDelivered (s : State) (w : Word) : (s.send w).evDelivered = s.evDelivered := rfl
@[simp] theorem State.send_results (s : State) (w : Word) : (s.send w).results = s.results := rfl
@[simp] theorem State.send_draws (s : State) (w : Word) : (s.send w).draws = s.draws := rfl
@[simp] theorem State.send_side (s : State) (w : Word) : (s.send w).side = s.side := rfl
@[simp] theorem State.send_scripts (s : State) (w : Word) : (s.send w).scripts = s.scripts := rfl
@[simp] theorem State.send_schedule (s : State) (w : Word) : (s.send w).schedule = s.schedule := rfl
@[simp] theorem State.send_chip (s : State) (w : Word) (j : ChipId) : (s.send w).chip j = s.chip j := rfl
@[simp] theorem State.send_tracker (s : State) (w : Word) (j : ReqId) : (s.send w).tracker j = s.tracker j := rfl

/-! `respond`. -/

@[simp] theorem State.respond_layout (s : State) (w : Word) : (s.respond w).layout = s.layout := rfl
@[simp] theorem State.respond_addrMode (s : State) (w : Word) : (s.respond w).addrMode = s.addrMode := rfl
@[simp] theorem State.respond_chips (s : State) (w : Word) : (s.respond w).chips = s.chips := rfl
@[simp] theorem State.respond_trackers (s : State) (w : Word) : (s.respond w).trackers = s.trackers := rfl
@[simp] theorem State.respond_overflowLog (s : State) (w : Word) : (s.respond w).overflowLog = s.overflowLog := rfl
@[simp] theorem State.respond_toDevice (s : State) (w : Word) : (s.respond w).toDevice = s.toDevice := rfl
@[simp] theorem State.respond_toRequester (s : State) (w : Word) : (s.respond w).toRequester = s.toRequester ++ [w] := rfl
@[simp] theorem State.respond_evDelivered (s : State) (w : Word) : (s.respond w).evDelivered = s.evDelivered := rfl
@[simp] theorem State.respond_results (s : State) (w : Word) : (s.respond w).results = s.results := rfl
@[simp] theorem State.respond_draws (s : State) (w : Word) : (s.respond w).draws = s.draws := rfl
@[simp] theorem State.respond_side (s : State) (w : Word) : (s.respond w).side = s.side := rfl
@[simp] theorem State.respond_scripts (s : State) (w : Word) : (s.respond w).scripts = s.scripts := rfl
@[simp] theorem State.respond_schedule (s : State) (w : Word) : (s.respond w).schedule = s.schedule := rfl
@[simp] theorem State.respond_chip (s : State) (w : Word) (j : ChipId) : (s.respond w).chip j = s.chip j := rfl
@[simp] theorem State.respond_tracker (s : State) (w : Word) (j : ReqId) : (s.respond w).tracker j = s.tracker j := rfl

/-! `report`. -/

@[simp] theorem State.report_layout (s : State) (c : Option Nat) (r : Result) : (s.report c r).layout = s.layout := rfl
@[simp] theorem State.report_addrMode (s : State) (c : Option Nat) (r : Result) : (s.report c r).addrMode = s.addrMode := rfl
@[simp] theorem State.report_chips (s : State) (c : Option Nat) (r : Result) : (s.report c r).chips = s.chips := rfl
@[simp] theorem State.report_trackers (s : State) (c : Option Nat) (r : Result) : (s.report c r).trackers = s.trackers := rfl
@[simp] theorem State.report_overflowLog (s : State) (c : Option Nat) (r : Result) : (s.report c r).overflowLog = s.overflowLog := rfl
@[simp] theorem State.report_toDevice (s : State) (c : Option Nat) (r : Result) : (s.report c r).toDevice = s.toDevice := rfl
@[simp] theorem State.report_toRequester (s : State) (c : Option Nat) (r : Result) : (s.report c r).toRequester = s.toRequester := rfl
@[simp] theorem State.report_evDelivered (s : State) (c : Option Nat) (r : Result) : (s.report c r).evDelivered = s.evDelivered := rfl
@[simp] theorem State.report_results (s : State) (c : Option Nat) (r : Result) : (s.report c r).results = s.results ++ [(c, r)] := rfl
@[simp] theorem State.report_draws (s : State) (c : Option Nat) (r : Result) : (s.report c r).draws = s.draws := rfl
@[simp] theorem State.report_side (s : State) (c : Option Nat) (r : Result) : (s.report c r).side = s.side := rfl
@[simp] theorem State.report_scripts (s : State) (c : Option Nat) (r : Result) : (s.report c r).scripts = s.scripts := rfl
@[simp] theorem State.report_schedule (s : State) (c : Option Nat) (r : Result) : (s.report c r).schedule = s.schedule := rfl
@[simp] theorem State.report_chip (s : State) (c : Option Nat) (r : Result) (j : ChipId) : (s.report c r).chip j = s.chip j := rfl
@[simp] theorem State.report_tracker (s : State) (c : Option Nat) (r : Result) (j : ReqId) : (s.report c r).tracker j = s.tracker j := rfl

/-! `raise`. -/

@[simp] theorem State.raise_layout (s : State) (c : Option Nat) (e : ErrorKind) : (s.raise c e).layout = s.layout := rfl
@[simp] theorem State.raise_addrMode (s : State) (c : Option Nat) (e : ErrorKind) : (s.raise c e).addrMode = s.addrMode := rfl
@[simp] theorem State.raise_chips (s : State) (c : Option Nat) (e : ErrorKind) : (s.raise c e).chips = s.chips := rfl
@[simp] theorem State.raise_trackers (s : State) (c : Option Nat) (e : ErrorKind) : (s.raise c e).trackers = s.trackers := rfl
@[simp] theorem State.raise_overflowLog (s : State) (c : Option Nat) (e : ErrorKind) : (s.raise c e).overflowLog = s.overflowLog := rfl
@[simp] theorem State.raise_toDevice (s : State) (c : Option Nat) (e : ErrorKind) : (s.raise c e).toDevice = s.toDevice := rfl
@[simp] theorem State.raise_toRequester (s : State) (c : Option Nat) (e : ErrorKind) : (s.raise c e).toRequester = s.toRequester := rfl
@[simp] theorem State.raise_evDelivered (s : State) (c : Option Nat) (e : ErrorKind) : (s.raise c e).evDelivered = s.evDelivered := rfl
@[simp] theorem State.raise_results (s : State) (c : Option Nat) (e : ErrorKind) : (s.raise c e).results = s.results ++ [(c, .error e)] := rfl
@[simp] theorem State.raise_draws (s : State) (c : Option Nat) (e : ErrorKind) : (s.raise c e).draws = s.draws := rfl
@[simp] theorem State.raise_side (s : State) (c : Option Nat) (e : ErrorKind) : (s.raise c e).side = s.side := rfl
@[simp] theorem State.raise_scripts (s : State) (c : Option Nat) (e : ErrorKind) : (s.raise c e).scripts = s.scripts := rfl
@[simp] theorem State.raise_schedule (s : State) (c : Option Nat) (e : ErrorKind) : (s.raise c e).schedule = s.schedule := rfl
@[simp] theorem State.raise_chip (s : State) (c : Option Nat) (e : ErrorKind) (j : ChipId) : (s.raise c e).chip j = s.chip j := rfl
@[simp] theorem State.raise_tracker (s : State) (c : Option Nat) (e : ErrorKind) (j : ReqId) : (s.raise c e).tracker j = s.tracker j := rfl

/-! `logOverflows`. -/

@[simp] theorem State.logOverflows_layout (s : State) (os : List Overflow) : (s.logOverflows os).layout = s.layout := rfl
@[simp] theorem State.logOverflows_addrMode (s : State) (os : List Overflow) : (s.logOverflows os).addrMode = s.addrMode := rfl
@[simp] theorem State.logOverflows_chips (s : State) (os : List Overflow) : (s.logOverflows os).chips = s.chips := rfl
@[simp] theorem State.logOverflows_trackers (s : State) (os : List Overflow) : (s.logOverflows os).trackers = s.trackers := rfl
@[simp] theorem State.logOverflows_overflowLog (s : State) (os : List Overflow) : (s.logOverflows os).overflowLog = s.overflowLog ++ os := rfl
@[simp] theorem State.logOverflows_toDevice (s : State) (os : List Overflow) : (s.logOverflows os).toDevice = s.toDevice := rfl
@[simp] theorem State.logOverflows_toRequester (s : State) (os : List Overflow) : (s.logOverflows os).toRequester = s.toRequester := rfl
@[simp] theorem State.logOverflows_evDelivered (s : State) (os : List Overflow) : (s.logOverflows os).evDelivered = s.evDelivered := rfl
@[simp] theorem State.logOverflows_results (s : State) (os : List Overflow) : (s.logOverflows os).results = s.results := rfl
@[simp] theorem State.logOverflows_draws (s : State) (os : List Overflow) : (s.logOverflows os).draws = s.draws := rfl
@[simp] theorem State.logOverflows_side (s : State) (os : List Overflow) : (s.logOverflows os).side = s.side := rfl
@[simp] theorem State.logOverflows_scripts (s : State) (os : List Overflow) : (s.logOverflows os).scripts = s.scripts := rfl
@[simp] theorem State.logOverflows_schedule (s : State) (os : List Overflow) : (s.logOverflows os).schedule = s.schedule := rfl
@[simp] theorem State.logOverflows_chip (s : State) (os : List Overflow) (j : ChipId) : (s.logOverflows os).chip j = s.chip j := rfl
@[simp] theorem State.logOverflows_tracker (s : State) (os : List Overflow) (j : ReqId) : (s.logOverflows os).tracker j = s.tracker j := rfl

/-! `expand`. -/

@[simp] theorem State.expand_layout (s : State) (caller : Nat) (as : List Action) : (s.expand caller as).layout = s.layout := rfl
@[simp] theorem State.expand_addrMode (s : State) (caller : Nat) (as : List Action) : (s.expand caller as).addrMode = s.addrMode := rfl
@[simp] theorem State.expand_chips (s : State) (caller : Nat) (as : List Action) : (s.expand caller as).chips = s.chips := rfl
@[simp] theorem State.expand_trackers (s : State) (caller : Nat) (as : List Action) : (s.expand caller as).trackers = s.trackers := rfl
@[simp] theorem State.expand_overflowLog (s : State) (caller : Nat) (as : List Action) : (s.expand caller as).overflowLog = s.overflowLog := rfl
@[simp] theorem State.expand_toDevice (s : State) (caller : Nat) (as : List Action) : (s.expand caller as).toDevice = s.toDevice := rfl
@[simp] theorem State.expand_toRequester (s : State) (caller : Nat) (as : List Action) : (s.expand caller as).toRequester = s.toRequester := rfl
@[simp] theorem State.expand_evDelivered (s : State) (caller : Nat) (as : List Action) : (s.expand caller as).evDelivered = s.evDelivered := rfl
@[simp] theorem State.expand_results (s : State) (caller : Nat) (as : List Action) : (s.expand caller as).results = s.results := rfl
@[simp] theorem State.expand_draws (s : State) (caller : Nat) (as : List Action) : (s.expand caller as).draws = s.draws := rfl
@[simp] theorem State.expand_side (s : State) (caller : Nat) (as : List Action) : (s.expand caller as).side = s.side := rfl
@[simp] theorem State.expand_scripts (s : State) (caller : Nat) (as : List Action) : (s.expand caller as).scripts = s.scripts.set caller (as ++ s.script caller) := rfl
@[simp] theorem State.expand_schedule (s : State) (caller : Nat) (as : List Action) : (s.expand caller as).schedule = s.schedule := rfl
@[simp] theorem State.expand_chip (s : State) (caller : Nat) (as : List Action) (j : ChipId) : (s.expand caller as).chip j = s.chip j := rfl
@[simp] theorem State.expand_tracker (s : State) (caller : Nat) (as : List Action) (j : ReqId) : (s.expand caller as).tracker j = s.tracker j := rfl

/-! `setScript`. -/

@[simp] theorem State.setScript_layout (s : State) (caller : Nat) (as : List Action) :
    (s.setScript caller as).layout = s.layout := rfl
@[simp] theorem State.setScript_addrMode (s : State) (caller : Nat) (as : List Action) :
    (s.setScript caller as).addrMode = s.addrMode := rfl
@[simp] theorem State.setScript_chips (s : State) (caller : Nat) (as : List Action) :
    (s.setScript caller as).chips = s.chips := rfl
@[simp] theorem State.setScript_trackers (s : State) (caller : Nat) (as : List Action) :
    (s.setScript caller as).trackers = s.trackers := rfl
@[simp] theorem State.setScript_overflowLog (s : State) (caller : Nat) (as : List Action) :
    (s.setScript caller as).overflowLog = s.overflowLog := rfl
@[simp] theorem State.setScript_toDevice (s : State) (caller : Nat) (as : List Action) :
    (s.setScript caller as).toDevice = s.toDevice := rfl
@[simp] theorem State.setScript_toRequester (s : State) (caller : Nat) (as : List Action) :
    (s.setScript caller as).toRequester = s.toRequester := rfl
@[simp] theorem State.setScript_evDelivered (s : State) (caller : Nat) (as : List Action) :
    (s.setScript caller as).evDelivered = s.evDelivered := rfl
@[simp] theorem State.setScript_results (s : State) (caller : Nat) (as : List Action) :
    (s.setScript caller as).results = s.results := rfl
@[simp] theorem State.setScript_draws (s : State) (caller : Nat) (as : List Action) :
    (s.setScript caller as).draws = s.draws := rfl
@[simp] theorem State.setScript_side (s : State) (caller : Nat) (as : List Action) :
    (s.setScript caller as).side = s.side := rfl
@[simp] theorem State.setScript_schedule (s : State) (caller : Nat) (as : List Action) :
    (s.setScript caller as).schedule = s.schedule := rfl
@[simp] theorem State.setScript_scripts (s : State) (caller : Nat) (as : List Action) :
    (s.setScript caller as).scripts = s.scripts.set caller as := rfl
@[simp] theorem State.setScript_chip (s : State) (caller : Nat) (as : List Action) (j : ChipId) :
    (s.setScript caller as).chip j = s.chip j := rfl
@[simp] theorem State.setScript_tracker (s : State) (caller : Nat) (as : List Action) (j : ReqId) :
    (s.setScript caller as).tracker j = s.tracker j := rfl

/-- What a caller's script is after it is replaced, where there is such a caller. -/
theorem State.setScript_script_same (s : State) (caller : Nat) (as : List Action) (h : caller < s.scripts.length) :
    (s.setScript caller as).script caller = as := by
  simp [State.script, State.setScript, h]

theorem State.setScript_script_ne (s : State) (caller other : Nat) (as : List Action) (h : other ≠ caller) :
    (s.setScript caller as).script other = s.script other := by
  simp [State.script, State.setScript, Ne.symm h]

/-! Reading a chip or a tracker after replacing one. -/

@[simp] theorem State.setChip_chip_same (s : State) (k : ChipId) (c : Chip) : (s.setChip k c).chip k = c := by
  simp [State.chip, State.setChip]

theorem State.setChip_chip_ne (s : State) (k j : ChipId) (c : Chip) (h : j ≠ k) :
    (s.setChip k c).chip j = s.chip j := by
  have : (k : Nat) ≠ (j : Nat) := fun e => h (Fin.ext e.symm)
  simp [State.chip, State.setChip, this]

@[simp] theorem State.setTracker_tracker_same (s : State) (r : ReqId) (t : Tracker) :
    (s.setTracker r t).tracker r = t := by
  simp [State.tracker, State.setTracker]

theorem State.setTracker_tracker_ne (s : State) (r j : ReqId) (t : Tracker) (h : j ≠ r) :
    (s.setTracker r t).tracker j = s.tracker j := by
  have : (r : Nat) ≠ (j : Nat) := fun e => h (Fin.ext e.symm)
  simp [State.tracker, State.setTracker, this]

@[simp] theorem State.setChip_chip_self (s : State) (k : ChipId) : s.setChip k (s.chip k) = s := by
  simp [State.chip, State.setChip]

@[simp] theorem State.setTracker_tracker_self (s : State) (r : ReqId) : s.setTracker r (s.tracker r) = s := by
  simp [State.tracker, State.setTracker]

/-- Replacing one device instance leaves everything else alone. -/
theorem OnlyChip.setChip (s : State) (k : ChipId) (c : Chip) : OnlyChip k s (s.setChip k c) :=
  ⟨rfl, fun j h => s.setChip_chip_ne k j c h⟩

/-! Applying a function to every element of a vector. -/

@[simp] theorem getElem_mapVector {α β : Type} {n : Nat} (f : α → β) (v : Vector α n) (i : Nat) (h : i < n) :
    (mapVector f v)[i] = f v[i] := by
  simp [mapVector]

@[simp] theorem toList_mapVector {α β : Type} {n : Nat} (f : α → β) (v : Vector α n) :
    (mapVector f v).toList = v.toList.map f := rfl

@[simp] theorem State.resetStep_chip (s : State) (k : ChipId) :
    s.resetStep.chip k = (s.chip k).resetStep s.layout := by
  simp [State.chip, State.resetStep]

@[simp] theorem State.resetStep_tracker (s : State) (r : ReqId) : s.resetStep.tracker r = (s.tracker r).resetStep := by
  simp [State.tracker, State.resetStep]

@[simp] theorem State.restartEncodeFace_tracker (s : State) (r : ReqId) :
    s.restartEncodeFace.tracker r = (s.tracker r).restart := by
  simp [State.tracker, State.restartEncodeFace]

@[simp] theorem State.restartEncodeFace_chip (s : State) (k : ChipId) : s.restartEncodeFace.chip k = s.chip k := rfl

/-! `push`, `answer` and `ended` of a tracker. -/

@[simp] theorem Tracker.push_row (t : Tracker) (kind : ReadKind) : (t.push kind).row = t.row := rfl
@[simp] theorem Tracker.push_pending (t : Tracker) (kind : ReadKind) : (t.push kind).pending = t.pending ++ [kind] := rfl
@[simp] theorem Tracker.push_poison (t : Tracker) (kind : ReadKind) : (t.push kind).poison = t.poison := rfl
@[simp] theorem Tracker.push_prfsm (t : Tracker) (kind : ReadKind) : (t.push kind).prfsm = t.prfsm := rfl
@[simp] theorem Tracker.push_vfail (t : Tracker) (kind : ReadKind) : (t.push kind).vfail = t.vfail := rfl
@[simp] theorem Tracker.push_batch (t : Tracker) (kind : ReadKind) : (t.push kind).batch = t.batch := rfl
@[simp] theorem Tracker.push_readsSent (t : Tracker) (kind : ReadKind) : (t.push kind).readsSent = t.readsSent + 1 := rfl
@[simp] theorem Tracker.push_answers (t : Tracker) (kind : ReadKind) : (t.push kind).answers = t.answers := rfl

/-- Sending a read leaves the number of the oldest one (R82). -/
@[simp] theorem Tracker.push_oldestRead (t : Tracker) (kind : ReadKind) : (t.push kind).oldestRead = t.oldestRead := by
  simp [Tracker.oldestRead]

@[simp] theorem Tracker.answer_row (t : Tracker) (r : Result) : (t.answer r).row = t.row := rfl
@[simp] theorem Tracker.answer_pending (t : Tracker) (r : Result) : (t.answer r).pending = t.pending.tail := rfl
@[simp] theorem Tracker.answer_poison (t : Tracker) (r : Result) : (t.answer r).poison = t.poison := rfl
@[simp] theorem Tracker.answer_prfsm (t : Tracker) (r : Result) : (t.answer r).prfsm = t.prfsm := rfl
@[simp] theorem Tracker.answer_vfail (t : Tracker) (r : Result) : (t.answer r).vfail = t.vfail := rfl
@[simp] theorem Tracker.answer_batch (t : Tracker) (r : Result) : (t.answer r).batch = t.batch := rfl
@[simp] theorem Tracker.answer_readsSent (t : Tracker) (r : Result) : (t.answer r).readsSent = t.readsSent := rfl
@[simp] theorem Tracker.answer_answers (t : Tracker) (r : Result) :
    (t.answer r).answers = t.answers ++ [(t.oldestRead, r)] := rfl

/-- Answering the oldest read is ending it. -/
theorem Tracker.answer_eq_ended (t : Tracker) {kind : ReadKind} {rest : List ReadKind} (r : Result)
    (h : t.pending = kind :: rest) : t.answer r = t.ended rest r := by
  simp [Tracker.answer, Tracker.ended, h]

/-- A read is unanswered exactly while no answer bears its number. -/
theorem Tracker.answerTo_eq_none (t : Tracker) (read : Nat) :
    t.answerTo read = none ↔ ∀ r, (read, r) ∉ t.answers := by
  rw [Tracker.answerTo, Option.map_eq_none_iff, List.find?_eq_none]
  exact ⟨fun h r hr => h _ hr (by simp), fun h e he hr => h e.2 (by rw [← beq_iff_eq.1 hr]; exact he)⟩

/-! Members of the vectors. -/

theorem State.all_chips (s : State) (p : Chip → Bool) :
    s.chips.toList.all p = true ↔ ∀ k : ChipId, p (s.chip k) = true := by
  rw [List.all_eq_true]
  constructor
  · intro h k
    exact h _ (by simp [State.chip])
  · intro h c hc
    obtain ⟨i, hi, rfl⟩ := List.getElem_of_mem hc
    simp only [Vector.length_toList] at hi
    simpa [State.chip] using h ⟨i, hi⟩

theorem State.all_trackers (s : State) (p : Tracker → Bool) :
    s.trackers.toList.all p = true ↔ ∀ r : ReqId, p (s.tracker r) = true := by
  rw [List.all_eq_true]
  constructor
  · intro h k
    exact h _ (by simp [State.tracker])
  · intro h c hc
    obtain ⟨i, hi, rfl⟩ := List.getElem_of_mem hc
    simp only [Vector.length_toList] at hi
    simpa [State.tracker] using h ⟨i, hi⟩

end Sys2Proof.Machine
end

