-- ==== Sys2Proof/Laws/Agents.lean ====
section
/-! SUPPORT. What the agents' choices can be, said once: the word an instance takes out of the shared FIFO, the drained
link, whom a caller waits for, the batch a lost read takes with it. -/

namespace Sys2Proof.Machine

/-- The instance `k` takes the first word addressed to it and leaves the others in their order (R81, R83, R147). -/
theorem takeFor_iff (k : ChipId) (ws rest : List Word) (w : Word) :
    takeFor k ws = some (w, rest) ↔
      ∃ before after, ws = before ++ w :: after ∧ rest = before ++ after ∧ get w Field.chipid = k.val ∧
        ∀ v ∈ before, get v Field.chipid ≠ k.val := by
  induction ws generalizing rest with
  | nil => simp [takeFor]
  | cons v ws ih =>
    by_cases hv : get v Field.chipid = k.val
    · rw [takeFor, if_pos hv]
      constructor
      · rintro ⟨⟩
        exact ⟨[], ws, rfl, rfl, hv, by simp⟩
      · rintro ⟨before, after, hw, rfl, -, hb⟩
        cases before with
        | nil => simp_all
        | cons u before => simp_all
    · rw [takeFor, if_neg hv, Option.map_eq_some_iff]
      constructor
      · rintro ⟨⟨u, r⟩, hu, he⟩
        obtain ⟨rfl, rfl⟩ := Prod.mk.inj he
        obtain ⟨before, after, rfl, rfl, hk, hb⟩ := (ih r).1 hu
        exact ⟨v :: before, after, rfl, rfl, hk, by simpa [hv] using hb⟩
      · rintro ⟨before, after, hw, rfl, hk, hb⟩
        cases before with
        | nil => simp_all
        | cons u before =>
          obtain ⟨rfl, rfl⟩ := List.cons.inj hw
          exact ⟨(w, before ++ after), (ih _).2 ⟨before, after, rfl, rfl, hk, fun x hx => hb x (by simp [hx])⟩, rfl⟩

/-- The link is drained of reads exactly when no chip on it has one in flight (R239). -/
theorem State.noneInFlight_iff (s : State) :
    s.noneInFlight = true ↔ ∀ k : ChipId, (s.chip k).present = true → (s.tracker (reqOf k)).pending = [] := by
  simp only [State.noneInFlight, List.all_eq_true, List.mem_finRange, forall_const, Bool.or_eq_true,
    Bool.not_eq_true', List.isEmpty_iff]
  exact forall_congr' fun k => by cases (s.chip k).present <;> simp

/-- The first caller that is ready is the one that steps by default. -/
theorem State.nextCaller_eq (s : State) (caller : Nat) (h : s.ready caller = true)
    (hb : ∀ j, j < caller → s.ready j = false) : s.nextCaller = caller := by
  have hlen : caller < s.scripts.length := by
    by_contra hc
    simp [State.ready, State.script, List.getElem?_eq_none (Nat.le_of_not_lt hc)] at h
  have : (List.range s.scripts.length).find? s.ready = some caller := by
    rw [List.find?_range_eq_some]
    exact ⟨h, List.mem_range.2 hlen, fun j hj => by simp [hb j hj]⟩
  rw [State.nextCaller, this, Option.getD_some]

/-- A caller waits for its read exactly while no answer bears the read's number (R150, R305). -/
theorem State.waits_await (s : State) (caller : Nat) (r : ReqId) (read : Nat) :
    s.waits caller (.await r read) = true ↔ ∀ e, (read, e) ∉ (s.tracker r).answers := by
  rw [State.waits, Option.isNone_iff_eq_none, Tracker.answerTo_eq_none]

/-- The read that a request has sent is the next one in the numbering (R149). -/
theorem readSent_eq (s t : State) (c : ReqId) :
    readSent (some c.val) s t =
      if (s.tracker c).readsSent < (t.tracker c).readsSent then some (c, (s.tracker c).readsSent) else none := by
  simp [readSent]

/-- Everything a blocking call can do (R150, R305): what its request does, and the caller waits where a read was sent. -/
theorem call_next {caller : Nat} {r : Request} {rest : ReqId → Nat → Action} {s u : State}
    (h : call caller r rest s = .next u) :
    ∃ t, runRequest r s = .next t ∧
      ((readSent r.target s t = none ∧ u = t) ∨
        ∃ c read, readSent r.target s t = some (c, read) ∧ u = t.expand caller [rest c read]) := by
  unfold call at h
  split at h
  · next t ht =>
    refine ⟨t, ht, ?_⟩
    split at h
    · next c read hc => exact .inr ⟨c, read, hc, (Host.Outcome.next.inj h).symm⟩
    · next hc => exact .inl ⟨hc, (Host.Outcome.next.inj h).symm⟩
  · cases h
  · cases h

/-- A batch that awaits a lost read is lost; one between two reads stays (R334). -/
theorem Tracker.batchWithoutReads_eq (t : Tracker) (b : Batch) (h : t.batch = some b) :
    t.batchWithoutReads = if b.awaiting = none then some b else none := by
  simp [Tracker.batchWithoutReads, h, Option.filter]

@[simp] theorem Tracker.batchWithoutReads_awaiting (t : Tracker) {b : Batch} (h : t.batchWithoutReads = some b) :
    b.awaiting = none := by
  simp only [Tracker.batchWithoutReads, Option.filter_eq_some_iff, Option.isNone_iff_eq_none] at h
  exact h.2

end Sys2Proof.Machine
end

