-- ==== Sys2Proof/Laws/Codec.lean ====
section
/-! SUPPORT. The bit-field codec bit by bit, and what it gives: reading a field back, fields that do not overlap, and
words assembled from disjoint fields (40_bitfield_codec R131, R135, R137). -/

namespace Sys2Proof

theorem testBit_bits {n : Nat} (w : BitVec n) (pos width i : Nat) :
    (bits w pos width).testBit i = (decide (i < width) && w.getLsbD (pos + i)) := by
  simp [bits, Nat.testBit_mod_two_pow, Nat.testBit_shiftRight, BitVec.getLsbD]

theorem testBit_get {n : Nat} (w : BitVec n) (f : Field) (i : Nat) :
    (get w f).testBit i = (decide (i < f.width) && w.getLsbD (f.pos + i)) :=
  testBit_bits w f.pos f.width i

theorem bits_lt {n : Nat} (w : BitVec n) (pos width : Nat) : bits w pos width < 2 ^ width :=
  Nat.mod_lt _ (Nat.two_pow_pos width)

theorem get_lt {n : Nat} (w : BitVec n) (f : Field) : get w f < 2 ^ f.width := bits_lt w f.pos f.width

theorem getLsbD_putBits {n : Nat} (w : BitVec n) (pos width value i : Nat) :
    (putBits w pos width value).getLsbD i =
      (decide (i < n) && if pos ≤ i ∧ i < pos + width then value.testBit (i - pos) else w.getLsbD i) := by
  by_cases hi : i < n
  · simp only [putBits, BitVec.getLsbD_or, BitVec.getLsbD_and, BitVec.getLsbD_not, hi, decide_true, Bool.true_and,
      BitVec.getLsbD_ofNat, Nat.testBit_shiftLeft, Nat.testBit_mod_two_pow, Nat.testBit_two_pow_sub_one, ge_iff_le]
    by_cases h1 : pos ≤ i
    · by_cases h2 : i < pos + width
      · have h3 : i - pos < width := by omega
        simp [h1, h2, h3]
      · have h3 : ¬ i - pos < width := by omega
        simp [h1, h2, h3]
    · simp [h1]
  · rw [BitVec.getLsbD_of_ge _ _ (by omega)]
    simp [hi]

theorem getLsbD_put {n : Nat} (w : BitVec n) (f : Field) (value i : Nat) :
    (put w f value).getLsbD i =
      (decide (i < n) && if f.pos ≤ i ∧ i < f.pos + f.width then value.testBit (i - f.pos) else w.getLsbD i) :=
  getLsbD_putBits w f.pos f.width value i

/-- Reading the field just written gives the value reduced to the width (R134). -/
theorem get_put_same {n : Nat} (w : BitVec n) (f : Field) (value : Nat) (h : f.pos + f.width ≤ n) :
    get (put w f value) f = value % 2 ^ f.width := by
  apply Nat.eq_of_testBit_eq
  intro i
  rw [get, testBit_bits, getLsbD_put, Nat.testBit_mod_two_pow]
  by_cases hi : i < f.width
  · have h1 : f.pos + i < n := by omega
    have h2 : f.pos + i - f.pos = i := by omega
    simp [hi, h1, h2]
  · simp [hi]

/-- Writing a field leaves a field that does not overlap it alone (R135 (b)). -/
theorem get_put_disjoint {n : Nat} (w : BitVec n) (f g : Field) (value : Nat) (h : f.disjoint g = true)
    (hg : g.pos + g.width ≤ n) : get (put w f value) g = get w g := by
  apply Nat.eq_of_testBit_eq
  intro i
  rw [get, get, testBit_bits, testBit_bits, getLsbD_put]
  simp only [Field.disjoint, Bool.or_eq_true, decide_eq_true_eq] at h
  by_cases hi : i < g.width
  · have h1 : g.pos + i < n := by omega
    have h2 : ¬ (f.pos ≤ g.pos + i ∧ g.pos + i < f.pos + f.width) := by omega
    simp [hi, h1, h2]
  · simp [hi]

theorem get_zero {n : Nat} (f : Field) : get (0 : BitVec n) f = 0 := by
  apply Nat.eq_of_testBit_eq
  intro i
  simp [get, testBit_bits]

/-! Words assembled from field lists. -/

/-- Inserting a list of fields from any word on. -/
theorem get_foldl_disjoint (fs : List (Field × Nat)) (w : Word) (g : Field) (hg : g.pos + g.width ≤ 64)
    (h : ∀ p ∈ fs, p.1.disjoint g = true) :
    get (fs.foldl (fun w fv => put w fv.1 fv.2) w) g = get w g := by
  induction fs generalizing w with
  | nil => rfl
  | cons p fs ih =>
    rw [List.foldl_cons, ih _ (fun q hq => h q (List.mem_cons_of_mem _ hq)),
      get_put_disjoint _ _ _ _ (h p List.mem_cons_self) hg]

/-- A field that no listed field overlaps is 0 in the assembled word (R137). -/
theorem get_assemble_disjoint (fs : List (Field × Nat)) (g : Field) (hg : g.pos + g.width ≤ 64)
    (h : ∀ p ∈ fs, p.1.disjoint g = true) : get (assemble fs) g = 0 := by
  rw [assemble, get_foldl_disjoint fs 0 g hg h, get_zero]

theorem get_foldl_mem (fs : List (Field × Nat)) (w : Word) (f : Field) (v : Nat)
    (hd : pairwiseDisjoint (fs.map (·.1)) = true) (hm : (f, v) ∈ fs) (hf : f.pos + f.width ≤ 64) :
    get (fs.foldl (fun w fv => put w fv.1 fv.2) w) f = v % 2 ^ f.width := by
  induction fs generalizing w with
  | nil => simp at hm
  | cons p fs ih =>
    simp only [List.map_cons, pairwiseDisjoint, Bool.and_eq_true, List.all_eq_true] at hd
    rw [List.foldl_cons]
    rcases List.mem_cons.1 hm with h | h
    · rw [get_foldl_disjoint, ← h, get_put_same _ _ _ hf]
      · exact hf
      · intro q hq
        have := hd.1 q.1 (List.mem_map_of_mem hq)
        simp only [Field.disjoint, Bool.or_eq_true, decide_eq_true_eq, ← h] at this ⊢
        omega
    · exact ih _ hd.2 h

/-- A listed field of pairwise disjoint fields holds its value, reduced to its width (R137, R134, R135 (b)). -/
theorem get_assemble_mem (fs : List (Field × Nat)) (f : Field) (v : Nat)
    (hd : pairwiseDisjoint (fs.map (·.1)) = true) (hm : (f, v) ∈ fs) (hf : f.pos + f.width ≤ 64) :
    get (assemble fs) f = v % 2 ^ f.width :=
  get_foldl_mem fs 0 f v hd hm hf

end Sys2Proof
end

