-- ==== Sys2Proof/Laws/Encoding.lean ====
section
/-! SUPPORT. What a well-formed layout says of the fields of a word, and reading an encoded word's fields back
(30_encoding R91 to R99, 00_scope R10). -/

namespace Sys2Proof

/-! Lists of fields. -/

theorem Field.disjoint_comm (f g : Field) : f.disjoint g = g.disjoint f := by
  rw [Bool.eq_iff_iff]
  simp only [Field.disjoint, Bool.or_eq_true, decide_eq_true_eq]
  omega

theorem pairwiseDisjoint_iff (fs : List Field) :
    pairwiseDisjoint fs = true ↔ fs.Pairwise fun f g => f.disjoint g = true := by
  induction fs with
  | nil => simp [pairwiseDisjoint]
  | cons f fs ih => simp [pairwiseDisjoint, ih]

theorem fieldsOk_iff (lo hi : Nat) (fs : List Field) :
    fieldsOk lo hi fs = true ↔
      (∀ f ∈ fs, lo ≤ f.pos ∧ f.pos + f.width ≤ hi) ∧ fs.Pairwise fun f g => f.disjoint g = true := by
  simp [fieldsOk, Field.inside, pairwiseDisjoint_iff]

theorem fieldsOk_sublist {lo hi : Nat} {fs gs : List Field} (h : fieldsOk lo hi fs = true) (hs : gs.Sublist fs) :
    fieldsOk lo hi gs = true := by
  rw [fieldsOk_iff] at h ⊢
  exact ⟨fun f hf => h.1 f (hs.subset hf), h.2.sublist hs⟩

/-- The header of a command packet followed by fields of its data field (R92, R10 (b)). -/
theorem fieldsOk_command (chipId rwb cmd : Nat) (rest : List (Field × Nat))
    (h : fieldsOk 11 64 (rest.map (·.1)) = true) :
    fieldsOk 0 64 ((commandFields chipId rwb cmd ++ rest).map (·.1)) = true := by
  rw [fieldsOk_iff] at h ⊢
  simp only [commandFields, List.map_cons, List.cons_append, List.nil_append,
    List.pairwise_cons, List.mem_cons, forall_eq_or_imp, Field.disjoint, Bool.or_eq_true, decide_eq_true_eq]
  refine ⟨⟨?_, ?_, ?_, ?_, fun f hf => ?_⟩, ⟨?_, ?_, ?_, fun f hf => ?_⟩, ⟨?_, ?_, fun f hf => ?_⟩,
    ⟨?_, fun f hf => ?_⟩, fun f hf => ?_, ?_⟩
  all_goals first
    | (have := h.1 f hf; omega)
    | simp
    | simpa only [Field.disjoint, Bool.or_eq_true, decide_eq_true_eq] using h.2

/-! What well-formedness says (R10). -/

namespace Layout

variable {L : Layout}

theorem wf_split (h : L.wf = true) :
    L.wfCodes = true ∧ L.wfControl = true ∧ L.wfParam = true ∧ L.wfSynapse = true ∧ L.wfDelay = true
      ∧ L.wfEvent = true := by
  simp only [wf, Bool.and_eq_true] at h
  exact ⟨h.1.1.1.1.1, h.1.1.1.1.2, h.1.1.1.2, h.1.1.2, h.1.2, h.2⟩

/-- Every command code is an even 4-bit value, and the codes are pairwise distinct (R10 (c)). -/
theorem wf_codes (h : L.wf = true) : (∀ c ∈ L.commandCodes, c < 16 ∧ c % 2 = 0) ∧ allDistinct L.commandCodes = true := by
  have := (wf_split h).1
  simp only [wfCodes, Bool.and_eq_true, List.all_eq_true, decide_eq_true_eq] at this
  exact this.1

theorem wf_ctrlWrite (h : L.wf = true) : fieldsOk 11 64 [L.crSel, L.crVal, L.crFmask] = true := by
  have := (wf_split h).2.1
  simp only [wfControl, Bool.and_eq_true] at this
  exact this.1.1.1.1.1.2

theorem wf_crFields (h : L.wf = true) : fieldsOk 0 32 (ControlField.all.map L.crField) = true := by
  have := (wf_split h).2.1
  simp only [wfControl, Bool.and_eq_true] at this
  exact this.1.1.1.1.1.1

theorem wf_fmask (h : L.wf = true) : L.crFmask.width = 8 := by
  have := (wf_split h).2.1
  simp only [wfControl, Bool.and_eq_true, decide_eq_true_eq] at this
  exact this.1.1.1.1.2

theorem wf_status0 (h : L.wf = true) : fieldsOk 11 64 [L.crSel, L.stCtrl, L.stRev] = true := by
  have := (wf_split h).2.1
  simp only [wfControl, Bool.and_eq_true] at this
  exact this.1.1.2

theorem wf_status3 (h : L.wf = true) : fieldsOk 11 64 [L.crSel, L.stFstat, L.stFpos, L.stHinib, L.stPll] = true := by
  have := (wf_split h).2.1
  simp only [wfControl, Bool.and_eq_true] at this
  exact this.1.2

theorem wf_prEntry (h : L.wf = true) : fieldsOk 11 64 [L.prSub, L.prAdr, L.prP1, L.prP2, L.prP3] = true := by
  have := (wf_split h).2.2.1
  simp only [wfParam, Bool.and_eq_true] at this
  exact this.1.1.1.1.1.1.1.1

theorem wf_prPeriod (h : L.wf = true) : fieldsOk 11 64 [L.prSub, L.prPeriod] = true := by
  have := (wf_split h).2.2.1
  simp only [wfParam, Bool.and_eq_true] at this
  exact this.1.1.1.1.1.1.1.2

theorem wf_prLut (h : L.wf = true) :
    fieldsOk 11 64 [L.prSub, L.lutIdx, L.lutTime, L.lutBoost, L.lutRepeat, L.lutStep] = true := by
  have := (wf_split h).2.2.1
  simp only [wfParam, Bool.and_eq_true] at this
  exact this.1.1.1.1.1.1.2

theorem wf_prCount (h : L.wf = true) : fieldsOk 11 64 [L.prSub, L.prCount] = true := by
  have := (wf_split h).2.2.1
  simp only [wfParam, Bool.and_eq_true] at this
  exact this.1.1.1.1.1.2

/-- The numbers of the parameter-RAM family (R10 (f), (g), (h)). -/
theorem wf_prNumbers (h : L.wf = true) :
    L.prSub.width = 2 ∧ L.prBankSize.length = 8 ∧ L.prTotal ≤ 2 ^ L.prAdr.width ∧ L.prTotal < 2 ^ L.prCount.width
      ∧ L.lutN ≤ 2 ^ L.lutIdx.width := by
  have := (wf_split h).2.2.1
  simp only [wfParam, Bool.and_eq_true, decide_eq_true_eq] at this
  exact ⟨this.1.1.1.1.2, this.1.1.1.2, this.1.1.2, this.1.2, this.2⟩

theorem wf_sc (h : L.wf = true) : fieldsOk 11 64 [L.scSub, L.scRow, L.scCol, L.scData] = true := by
  have := (wf_split h).2.2.2.1
  simp only [wfSynapse, Bool.and_eq_true] at this
  exact this.1.1.1.1.1.1

/-- The numbers of the synapse-control family (R10 (g), (h)). -/
theorem wf_scNumbers (h : L.wf = true) :
    L.scSub.width = 3 ∧ L.scRows ≤ 2 ^ L.scRow.width ∧ L.scCols ≤ 2 ^ L.scCol.width
      ∧ L.scDoneOff < L.scData.width ∧ L.scCmerrOff < L.scData.width ∧ L.scDoneOff ≠ L.scCmerrOff := by
  have := (wf_split h).2.2.2.1
  simp only [wfSynapse, Bool.and_eq_true, decide_eq_true_eq] at this
  exact ⟨this.1.1.1.1.1.2, this.1.1.1.1.2, this.1.1.1.2, this.1.1.2, this.1.2, this.2⟩

theorem wf_delay (h : L.wf = true) : fieldsOk 0 64 [Field.chipid, L.dlAdr, L.dlVal] = true := by
  have := (wf_split h).2.2.2.2.1
  simp only [wfDelay, Bool.and_eq_true] at this
  exact this.1

theorem wf_lines (h : L.wf = true) : 36 ≤ 2 ^ L.dlAdr.width := by
  have := (wf_split h).2.2.2.2.1
  simp only [wfDelay, Bool.and_eq_true, decide_eq_true_eq] at this
  exact this.2

theorem wf_polarity (h : L.wf = true) : L.evValidPolarity ≤ 1 := by
  have := (wf_split h).2.2.2.2.2
  simp only [wfEvent, Bool.and_eq_true, decide_eq_true_eq] at this
  exact this.2

end Layout

/-! Reading an encoded word back. -/

/-- A field of an instruction's word holds its value, reduced to the width (R137). -/
theorem get_encode_mem (L : Layout) (i : Instr) (f : Field) (v : Nat)
    (h : fieldsOk 0 64 ((i.fields L).map (·.1)) = true) (hm : (f, v) ∈ i.fields L) :
    get (encode L i) f = v % 2 ^ f.width := by
  rw [fieldsOk, Bool.and_eq_true] at h
  refine get_assemble_mem _ f v h.2 hm ?_
  have := List.all_eq_true.1 h.1 f (List.mem_map_of_mem hm)
  simp [Field.inside] at this
  exact this

/-- A field of the word that no field of the format overlaps is 0 (R113, R137). -/
theorem get_encode_disjoint (L : Layout) (i : Instr) (g : Field) (hg : g.pos + g.width ≤ 64)
    (h : ∀ p ∈ i.fields L, p.1.disjoint g = true) : get (encode L i) g = 0 :=
  get_assemble_disjoint _ g hg h

end Sys2Proof
end

