-- ==== Sys2Proof/Laws/Control.lean ====
section
/-! SUPPORT. The masked write of the control register, bit by bit (42_control_status R158). -/

namespace Sys2Proof.Machine

/-- The write mask selects a field that covers bit `i`. -/
def maskSelects (L : Layout) (fmask : BitVec 8) (i : Nat) (f : ControlField) : Bool :=
  fmask.getLsbD f.index && (decide ((L.crField f).pos ≤ i) && decide (i < (L.crField f).pos + (L.crField f).width))

theorem getLsbD_putField (L : Layout) (r val : BitVec 32) (f : ControlField) (i : Nat) (hi : i < 32) :
    (put r (L.crField f) (get val (L.crField f))).getLsbD i =
      if (L.crField f).pos ≤ i ∧ i < (L.crField f).pos + (L.crField f).width then val.getLsbD i else r.getLsbD i := by
  rw [getLsbD_put, get, testBit_bits]
  by_cases h : (L.crField f).pos ≤ i ∧ i < (L.crField f).pos + (L.crField f).width
  · have h1 : i - (L.crField f).pos < (L.crField f).width := by omega
    have h2 : (L.crField f).pos + (i - (L.crField f).pos) = i := by omega
    simp [hi, h, h1, h2]
  · simp [hi, h]

/-- A bit that a selected field covers takes the value's bit, every other bit stays. -/
theorem getLsbD_maskedWrite (L : Layout) (cr val : BitVec 32) (fmask : BitVec 8) (i : Nat) (hi : i < 32) :
    (maskedWrite L cr val fmask).getLsbD i =
      if ControlField.all.any (maskSelects L fmask i) then val.getLsbD i else cr.getLsbD i := by
  unfold maskedWrite
  generalize ControlField.all = fs
  induction fs generalizing cr with
  | nil => simp
  | cons f fs ih =>
    rw [List.foldl_cons, ih, List.any_cons]
    by_cases hm : fmask.getLsbD f.index
    · rw [if_pos hm, getLsbD_putField L cr val f i hi]
      by_cases hf : (L.crField f).pos ≤ i ∧ i < (L.crField f).pos + (L.crField f).width
      · simp [maskSelects, hm, hf]
      · simp [maskSelects, hm, hf]
    · simp [maskSelects, hm]

/-! The control register's fields in a well-formed layout (R10 (d)). -/

theorem mem_controlFields (f : ControlField) : f ∈ ControlField.all := by
  cases f <;> simp [ControlField.all]

theorem crField_inside {L : Layout} (h : L.wf = true) (f : ControlField) :
    (L.crField f).pos + (L.crField f).width ≤ 32 :=
  (((fieldsOk_iff _ _ _).1 (Layout.wf_crFields h)).1 _ (List.mem_map_of_mem (mem_controlFields f))).2

theorem crField_disjoint {L : Layout} (h : L.wf = true) {f g : ControlField} (hne : f ≠ g) :
    (L.crField f).disjoint (L.crField g) = true := by
  have hp := ((fieldsOk_iff _ _ _).1 (Layout.wf_crFields h)).2
  simp only [ControlField.all, List.map_cons, List.map_nil, List.pairwise_cons, List.mem_cons, forall_eq_or_imp,
    List.not_mem_nil, false_imp_iff, implies_true, and_true] at hp
  cases f <;> cases g <;> first
    | exact absurd rfl hne
    | simp_all only
    | (rw [Field.disjoint_comm]; simp_all only)

/-- At a bit of field `f` the mask selects by `f`'s own mask bit. -/
theorem any_maskSelects {L : Layout} (h : L.wf = true) (fmask : BitVec 8) (f : ControlField) (i : Nat)
    (hi : i < (L.crField f).width) :
    ControlField.all.any (maskSelects L fmask ((L.crField f).pos + i)) = fmask.getLsbD f.index := by
  rw [Bool.eq_iff_iff, List.any_eq_true]
  constructor
  · rintro ⟨g, -, hg⟩
    simp only [maskSelects, Bool.and_eq_true, decide_eq_true_eq] at hg
    by_cases hfg : f = g
    · exact hfg ▸ hg.1
    · have := crField_disjoint h hfg
      simp only [Field.disjoint, Bool.or_eq_true, decide_eq_true_eq] at this
      omega
  · intro hm
    exact ⟨f, mem_controlFields f, by simp [maskSelects, hm, hi]⟩

/-- At a reserved bit the mask selects nothing (R31). -/
theorem any_maskSelects_reserved {L : Layout} (fmask : BitVec 8) {i : Nat} (hi : L.crReserved i = true) :
    ControlField.all.any (maskSelects L fmask i) = false := by
  rw [List.any_eq_false]
  intro g hg
  have := List.all_eq_true.1 hi g hg
  simp only [Bool.not_eq_true', Bool.and_eq_false_iff, decide_eq_false_iff_not] at this
  simp only [maskSelects, Bool.not_eq_true, Bool.and_eq_false_iff, decide_eq_false_iff_not]
  exact .inr this

end Sys2Proof.Machine
end

