-- ==== Sys2Proof/Laws/Memory.lean ====
section
/-! SUPPORT. The memories: what a read after a write gives, and that a write keeps the canonical form, the range of the
element numbers and the widths of the elements (20_memory R60, R71, R81). -/

namespace Sys2Proof.Machine

variable {α : Type}

@[simp] theorem Memory.read_write_same (m : Memory α) (a : Nat) (v : α) : (m.write a v).read a = some v := by
  induction m with
  | nil => simp [Memory.write, Memory.read]
  | cons e m ih =>
    obtain ⟨b, u⟩ := e
    simp only [Memory.write]
    split
    · simp [Memory.read]
    · split
      · simp [Memory.read]
      · next _ h => simp [Memory.read, h, ih]

theorem Memory.read_write_ne (m : Memory α) (a b : Nat) (v : α) (h : b ≠ a) : (m.write a v).read b = m.read b := by
  induction m with
  | nil => simp [Memory.write, Memory.read, h]
  | cons e m ih =>
    obtain ⟨c, u⟩ := e
    simp only [Memory.write]
    split
    · simp [Memory.read, h]
    · split
      · next _ hac =>
        subst hac
        simp [Memory.read, h]
      · simp [Memory.read, ih]

/-- What a write can do: nothing to any other element. -/
theorem Memory.mem_write (m : Memory α) (a : Nat) (v : α) (e : Nat × α) (h : e ∈ m.write a v) :
    e = (a, v) ∨ e ∈ m := by
  induction m with
  | nil => simpa [Memory.write] using h
  | cons f m ih =>
    obtain ⟨b, u⟩ := f
    simp only [Memory.write] at h
    split at h
    · simpa using h
    · split at h
      · rcases List.mem_cons.1 h with h | h
        · exact .inl h
        · exact .inr (List.mem_cons_of_mem _ h)
      · rcases List.mem_cons.1 h with h | h
        · exact .inr (h ▸ List.mem_cons_self)
        · exact (ih h).imp_right (List.mem_cons_of_mem _)

/-- A write keeps the canonical form. -/
theorem Memory.wf_write (m : Memory α) (a : Nat) (v : α) (h : m.wf = true) : (m.write a v).wf = true := by
  induction m with
  | nil => rfl
  | cons e m ih =>
    obtain ⟨b, u⟩ := e
    simp only [Memory.wf, Bool.and_eq_true, List.all_eq_true, decide_eq_true_eq] at h
    simp only [Memory.write]
    split
    · next hab =>
      simp only [Memory.wf, Bool.and_eq_true, List.all_eq_true, decide_eq_true_eq]
      refine ⟨fun e he => ?_, h⟩
      rcases List.mem_cons.1 he with he | he
      · exact he ▸ hab
      · exact Nat.lt_trans hab (h.1 e he)
    · split
      · next hab =>
        subst hab
        simpa only [Memory.wf, Bool.and_eq_true, List.all_eq_true, decide_eq_true_eq] using h
      · next h1 h2 =>
        simp only [Memory.wf, Bool.and_eq_true, List.all_eq_true, decide_eq_true_eq]
        refine ⟨fun e he => ?_, ih h.2⟩
        rcases Memory.mem_write m a v e he with he | he
        · rw [he]
          dsimp only
          omega
        · exact h.1 e he

@[simp] theorem Memory.wf_nil : Memory.wf ([] : Memory α) = true := rfl

@[simp] theorem Memory.within_nil (n : Nat) (p : α → Bool) : Memory.within ([] : Memory α) n p = true := rfl

/-- A write of a legal element keeps every element legal. -/
theorem Memory.within_write (m : Memory α) (n a : Nat) (p : α → Bool) (v : α) (h : m.within n p = true) (ha : a < n)
    (hv : p v = true) : (m.write a v).within n p = true := by
  simp only [Memory.within, List.all_eq_true, Bool.and_eq_true, decide_eq_true_eq] at h ⊢
  intro e he
  rcases Memory.mem_write m a v e he with he | he
  · exact he ▸ ⟨ha, hv⟩
  · exact h e he

/-- A read gives a listed element. -/
theorem Memory.mem_of_read (m : Memory α) (a : Nat) (v : α) (h : m.read a = some v) : (a, v) ∈ m := by
  induction m with
  | nil => simp [Memory.read] at h
  | cons e m ih =>
    obtain ⟨b, u⟩ := e
    simp only [Memory.read] at h
    split at h
    · next hab =>
      simp_all
    · exact List.mem_cons_of_mem _ (ih h)

/-- An element read is legal where all are. -/
theorem Memory.of_within (m : Memory α) (n a : Nat) (p : α → Bool) (v : α) (h : m.within n p = true)
    (hr : m.read a = some v) : a < n ∧ p v = true := by
  simp only [Memory.within, List.all_eq_true, Bool.and_eq_true, decide_eq_true_eq] at h
  exact h _ (Memory.mem_of_read m a v hr)

/-- The canonical form lists no element twice: an element of the list is what a read gives. -/
theorem Memory.read_of_mem (m : Memory α) (a : Nat) (v : α) (hw : m.wf = true) (h : (a, v) ∈ m) :
    m.read a = some v := by
  induction m with
  | nil => simp at h
  | cons e m ih =>
    obtain ⟨b, u⟩ := e
    simp only [Memory.wf, Bool.and_eq_true, List.all_eq_true, decide_eq_true_eq] at hw
    rcases List.mem_cons.1 h with h | h
    · simp_all [Memory.read]
    · have hb : b < a := hw.1 (a, v) h
      have hne : a ≠ b := by omega
      simp [Memory.read, hne, ih hw.2 h]

/-- Reading an empty memory. -/
@[simp] theorem Memory.read_nil (a : Nat) : Memory.read ([] : Memory α) a = none := rfl

/-- The element last written at an address is the one read. -/
theorem Memory.write_write_same (m : Memory α) (a : Nat) (u v : α) : (m.write a u).write a v = m.write a v := by
  induction m with
  | nil => simp [Memory.write]
  | cons e m ih =>
    obtain ⟨b, x⟩ := e
    by_cases h1 : a < b
    · simp [Memory.write, h1]
    · by_cases h2 : a = b
      · simp [Memory.write, h2]
      · simp [Memory.write, h1, h2, ih]

end Sys2Proof.Machine
end

