-- ==== Sys2Proof/Laws/Ops.lean ====
section
/-! SUPPORT. One lemma per shared operation that says once everything it can do: the device face's tests, the reads, the
masked write, the issue of a request, RSP's step on a response, and an agent's step. -/

namespace Sys2Proof.Machine

/-! The device face's tests. -/

theorem onDevice_present (k : ChipId) (s : State) (f : Chip → Host.Outcome State Fault Refusal)
    (h : (s.chip k).present = true) : onDevice k s f = f (s.chip k) := by
  simp [onDevice, h]

theorem onDevice_absent (k : ChipId) (s : State) (f : Chip → Host.Outcome State Fault Refusal)
    (h : (s.chip k).present = false) : onDevice k s f = .next s := by
  simp [onDevice, h]

/-- What a present instance's meaning gives is what the word gives. -/
theorem onDevice_of_present {k : ChipId} {s t : State} {f : Chip → Host.Outcome State Fault Refusal}
    (h : (s.chip k).present = true) (hf : f (s.chip k) = .next t) : onDevice k s f = .next t :=
  (onDevice_present k s f h).trans hf

/-- An instance that is absent skips; a present one does what the meaning says. -/
theorem onDevice_next {k : ChipId} {s t : State} {f : Chip → Host.Outcome State Fault Refusal}
    (h : onDevice k s f = .next t) :
    (s.chip k).present = false ∧ t = s ∨ (s.chip k).present = true ∧ f (s.chip k) = .next t := by
  cases hp : (s.chip k).present
  · rw [onDevice_absent k s f hp] at h
    exact .inl ⟨rfl, (Host.Outcome.next.inj h).symm⟩
  · rw [onDevice_present k s f hp] at h
    exact .inr ⟨rfl, h⟩

theorem whileIdle_next {c : Chip} {t : State} {o : Host.Outcome State Fault Refusal}
    (h : whileIdle c o = .next t) : c.busy = false ∧ o = .next t := by
  cases hb : c.busy <;> simp_all [whileIdle]

theorem whileIdle_idle (c : Chip) (o : Host.Outcome State Fault Refusal) (h : c.busy = false) :
    whileIdle c o = o := by
  simp [whileIdle, h]

theorem onElement_next {L : Layout} {c : Chip} {row col : Nat} {t : State} {o : Host.Outcome State Fault Refusal}
    (h : onElement L c row col o = .next t) :
    c.busy = false ∧ row < L.scRows ∧ col < L.scCols ∧ o = .next t := by
  obtain ⟨hb, h⟩ := whileIdle_next h
  cases ha : synapseAddressOk L row col
  · simp [ha] at h
  · simp only [synapseAddressOk, Bool.and_eq_true, decide_eq_true_eq] at ha
    simp_all [synapseAddressOk]

theorem onElement_ok (L : Layout) (c : Chip) (row col : Nat) (o : Host.Outcome State Fault Refusal)
    (hb : c.busy = false) (hr : row < L.scRows) (hc : col < L.scCols) : onElement L c row col o = o := by
  simp [onElement, whileIdle, synapseAddressOk, hb, hr, hc]

/-- The element number of (row, column) is inside the array. -/
theorem synapseIndex_lt {L : Layout} {row col : Nat} (hr : row < L.scRows) (hc : col < L.scCols) :
    synapseIndex L row col < L.scRows * L.scCols := by
  calc synapseIndex L row col < row * L.scCols + L.scCols := Nat.add_lt_add_left hc _
    _ = (row + 1) * L.scCols := by ring
    _ ≤ L.scRows * L.scCols := Nat.mul_le_mul_right _ hr

/-- Distinct (row, column) pairs have distinct element numbers. -/
theorem synapseIndex_inj {L : Layout} {row col row' col' : Nat} (hc : col < L.scCols) (hc' : col' < L.scCols)
    (h : synapseIndex L row col = synapseIndex L row' col') : row = row' ∧ col = col' := by
  simp only [synapseIndex] at h
  have hpos : 0 < L.scCols := by omega
  have h1 : col = col' := by
    have := congrArg (· % L.scCols) h
    simpa [Nat.mul_add_mod', Nat.mod_eq_of_lt hc, Nat.mod_eq_of_lt hc'] using this
  subst h1
  exact ⟨Nat.eq_of_mul_eq_mul_right hpos (by omega), rfl⟩

/-! Reads. -/

/-- A triple read is the one written last, or a free value (R188). -/
theorem readTriple_spec (s : State) (m : Memory Triple) (a : Nat) :
    (∃ v, m.read a = some v ∧ readTriple s m a = (v, s)) ∨
      (m.read a = none ∧ ∃ v, readTriple s m a = (v, s.took 3)
        ∧ v.p1 < 2 ^ s.layout.prPW ∧ v.p2 < 2 ^ s.layout.prPW ∧ v.p3 < 2 ^ s.layout.prPW) := by
  unfold readTriple
  cases h : m.read a with
  | some v => exact .inl ⟨v, rfl, rfl⟩
  | none => exact .inr ⟨rfl, _, rfl, BitVec.isLt _, BitVec.isLt _, BitVec.isLt _⟩

/-- An element read is the one written last, or a free value (R253, R332). -/
theorem readData_spec (s : State) (m : Memory Nat) (a : Nat) :
    (∃ v, m.read a = some v ∧ readData s m a = (v, s)) ∨
      (m.read a = none ∧ ∃ v, readData s m a = (v, s.took 1) ∧ v < 2 ^ s.layout.scData.width) := by
  unfold readData
  cases h : m.read a with
  | some v => exact .inl ⟨v, rfl, rfl⟩
  | none => exact .inr ⟨rfl, _, rfl, BitVec.isLt _⟩

/-- A register read is what was written last, or a free value (R332). -/
theorem readReg_spec (s : State) (r : SoftReg) (w : Nat) :
    (r.defined = true ∧ readReg s r w = (r.value, s)) ∨
      (r.defined = false ∧ ∃ v, readReg s r w = (v, s.took 1) ∧ v < 2 ^ w) := by
  unfold readReg
  cases h : r.defined
  · exact .inr ⟨rfl, _, rfl, BitVec.isLt _⟩
  · exact .inl ⟨rfl, rfl⟩

/-! Issue. -/

/-- Everything the issue of a request can do: it is refused in the wrong mode and while a read is in flight; else one
word is sent, and the tracker takes its change and, for a read, the pending entry (R149). -/
theorem issue_next {r : ReqId} {address : Bool} {fields : List (Field × Nat)} {read : Option ReadKind}
    {update : Tracker → Tracker} {s t : State} (h : issue r address fields read update s = .next t) :
    s.addrMode = address ∧ (s.tracker r).pending = [] ∧
      ((∃ kind, read = some kind ∧ t = ((s.logOverflows (overflows fields)).send (assemble fields)).setTracker r
          ((update (s.tracker r)).push kind)) ∨
        (read = none ∧ t = (((s.logOverflows (overflows fields)).send (assemble fields)).setTracker r
          (update (s.tracker r))).report (some r.val) (.ok (.sent (assemble fields))))) := by
  unfold issue at h
  split at h
  · cases h
  · next hm =>
    split at h
    · cases h
    · next hp =>
      refine ⟨Decidable.not_not.1 hm, Decidable.not_not.1 hp, ?_⟩
      cases read with
      | some kind => exact .inl ⟨kind, rfl, (Host.Outcome.next.inj h).symm⟩
      | none => exact .inr ⟨rfl, (Host.Outcome.next.inj h).symm⟩

/-- The issue of a read in the right mode with nothing in flight. -/
theorem issue_read (r : ReqId) (address : Bool) (fields : List (Field × Nat)) (kind : ReadKind)
    (update : Tracker → Tracker) (s : State) (hm : s.addrMode = address) (hp : (s.tracker r).pending = []) :
    issue r address fields (some kind) update s =
      .next (((s.logOverflows (overflows fields)).send (assemble fields)).setTracker r
        ((update (s.tracker r)).push kind)) := by
  simp [issue, hm, hp]

/-- The issue of a request without a response in the right mode with nothing in flight. -/
theorem issue_write (r : ReqId) (address : Bool) (fields : List (Field × Nat))
    (update : Tracker → Tracker) (s : State) (hm : s.addrMode = address) (hp : (s.tracker r).pending = []) :
    issue r address fields none update s =
      .next ((((s.logOverflows (overflows fields)).send (assemble fields)).setTracker r
        (update (s.tracker r))).report (some r.val) (.ok (.sent (assemble fields)))) := by
  simp [issue, hm, hp]

/-- A chip id from 16 on raises the error, any other goes on. -/
theorem withChipId_cases (chipId : Nat) (s : State) (f : ReqId → Host.Outcome State Fault Refusal) :
    (15 < chipId ∧ withChipId chipId s f = .next (s.raise (some chipId) (.invalidChipId chipId))) ∨
      ∃ h : chipId < 16, withChipId chipId s f = f ⟨chipId, h⟩ := by
  by_cases h : chipId < 16
  · exact .inr ⟨h, by simp [withChipId, h]⟩
  · exact .inl ⟨by omega, by simp [withChipId, h]⟩

/-! Responses. -/

/-- The good end of a read, with the same end for its caller (R150). -/
theorem acceptResponse_good {k : ChipId} {w : Word} {s : State} {kind : ReadKind} {rest : List ReadKind}
    (hp : (s.tracker (reqOf k)).pending = kind :: rest) (he : get w Field.cmd % 2 = 0) :
    acceptResponse k w s =
      .next (finishRead k kind w ((s.tracker (reqOf k)).answer (readResult s.layout kind w)) s) := by
  simp [acceptResponse, hp, he]

theorem acceptResponse_flagged {k : ChipId} {w : Word} {s : State} {kind : ReadKind} {rest : List ReadKind}
    (hp : (s.tracker (reqOf k)).pending = kind :: rest) (he : get w Field.cmd % 2 = 1) :
    acceptResponse k w s =
      .next (failRead k kind w ((s.tracker (reqOf k)).answer (.error (responseError w))) s) := by
  simp [acceptResponse, hp, he, readResult]

/-- Everything RSP's step on a command word can do (R150): the oldest read ends and its caller has its answer. -/
theorem acceptResponse_next {k : ChipId} {w : Word} {s t : State} (h : acceptResponse k w s = .next t) :
    ∃ kind rest, (s.tracker (reqOf k)).pending = kind :: rest ∧
      (t = failRead k kind w ((s.tracker (reqOf k)).answer (readResult s.layout kind w)) s ∨
        t = finishRead k kind w ((s.tracker (reqOf k)).answer (readResult s.layout kind w)) s) := by
  unfold acceptResponse at h
  split at h
  · cases h
  · next kind rest hp =>
    refine ⟨kind, rest, hp, ?_⟩
    split at h
    · exact .inl (Host.Outcome.next.inj h).symm
    · exact .inr (Host.Outcome.next.inj h).symm

/-- An error response changes the tracker of its chip and the results, nothing else (R282). -/
theorem failRead_effect (k : ChipId) (kind : ReadKind) (w : Word) (u : Tracker) (s : State) :
    ∃ u' e, failRead k kind w u s = (s.setTracker (reqOf k) u').raise (some k.val) e ∧ u'.pending = u.pending
      ∧ u'.row = u.row ∧ u'.poison = u.poison := by
  unfold failRead
  split
  · exact ⟨_, _, rfl, rfl, rfl, rfl⟩
  · exact ⟨_, _, rfl, rfl, rfl, rfl⟩

/-- A response changes the tracker of its chip and the results, nothing else (R150). -/
theorem finishRead_effect (k : ChipId) (kind : ReadKind) (w : Word) (u : Tracker) (s : State) :
    ∃ u' rs, finishRead k kind w u s = { s.setTracker (reqOf k) u' with results := s.results ++ rs }
      ∧ u'.pending = u.pending ∧ (u'.row = u.row ∨ u'.row = .idle) := by
  unfold finishRead
  split
  · split
    · exact ⟨_, [_], rfl, rfl, .inl rfl⟩
    · refine ⟨_, [_], rfl, ?_, ?_⟩ <;>
      · unfold Tracker.afterCtrl
        split
        · split <;> simp
        · simp
  · split
    · next todo a e _ =>
      refine ⟨u.afterVerify todo a e ⟨get w s.layout.prP1, get w s.layout.prP2, get w s.layout.prP3⟩, [], ?_, rfl,
        .inl rfl⟩
      simp only [State.setTracker, List.append_nil]
    · exact ⟨_, [_], rfl, rfl, .inl rfl⟩
  · exact ⟨_, [_], rfl, rfl, .inl rfl⟩

/-! Steps. -/

/-- A step is the step of one agent, over a well-formed layout: the schedule's next, or the default one. -/
theorem step_next {s t : State} (h : step s = .next t) :
    s.layout.wf = true ∧
      ((s.schedule = [] ∧ runAgent (defaultAgent s) s = .next t) ∨
        ∃ a rest, s.schedule = a :: rest ∧ runAgent a { s with schedule := rest } = .next t) := by
  unfold step at h
  split at h
  · next hw =>
    refine ⟨hw, ?_⟩
    unfold agentStep at h
    split at h
    · next hs => exact .inl ⟨hs, h⟩
    · next a rest hs => exact .inr ⟨a, rest, hs, h⟩
  · cases h

/-- A word at the device runs its instruction, or is skipped by all. -/
theorem deviceWord_next {w : Word} {s t : State} (h : deviceWord w s = .next t) :
    (∃ i, decodeDevice s.layout s.addrMode w = .ok i ∧ exec i s = .next t) ∨ (s.addressed w = false ∧ t = s) := by
  unfold deviceWord at h
  split at h
  · next i hi => exact .inl ⟨i, hi, h⟩
  · split at h
    · cases h
    · next ha => exact .inr ⟨by simpa using ha, (Host.Outcome.next.inj h).symm⟩

/-- A word at RSP runs its instruction. -/
theorem responseWord_next {w : Word} {s t : State} (h : responseWord w s = .next t) :
    ∃ i, decodeResponse s.layout s.oldestPending w = .ok i ∧ exec i s = .next t := by
  unfold responseWord at h
  split at h
  · next i hi => exact ⟨i, hi, h⟩
  · cases h

end Sys2Proof.Machine
end

