-- ==== Sys2Proof/Laws/Exec.lean ====
section
/-! SUPPORT. Everything an instruction can do, said once: what each face's consumer may change. -/

namespace Sys2Proof.Machine

/-- The instance keeps its strap, its revision and `CMERR`. -/
def KeepsIdentity (c c' : Chip) : Prop :=
  c'.present = c.present ∧ c'.revision = c.revision ∧ c'.cmerr = c.cmerr

/-- What a word of chip `k` may do: nothing; change the instance at `k`; answer with one word; end or carry on the
chip's oldest pending read; deliver events. -/
def Effect (k : ChipId) (s t : State) : Prop :=
  t = s ∨ (∃ c, KeepsIdentity (s.chip k) c ∧ t = s.setChip k c) ∨ (∃ w n, Answered w n s t) ∨
    (∃ kind rest u rs, (s.tracker (reqOf k)).pending = kind :: rest ∧ u.pending = rest ∧
      t = { s.setTracker (reqOf k) u with results := s.results ++ rs }) ∨
    ∃ es, t = { s with evDelivered := s.evDelivered ++ es }

theorem effect_setChip {k : ChipId} {s : State} {c : Chip} (h : KeepsIdentity (s.chip k) c) :
    Effect k s (s.setChip k c) := .inr (.inl ⟨c, h, rfl⟩)

theorem effect_accept {k : ChipId} {w : Word} {s t : State} (h : acceptResponse k w s = .next t) : Effect k s t := by
  obtain ⟨kind, rest, hp, h | h⟩ := acceptResponse_next h
  · obtain ⟨u, e, hf, hu, -⟩ := failRead_effect k kind w ((s.tracker (reqOf k)).answer (readResult s.layout kind w)) s
    exact .inr (.inr (.inr (.inl ⟨kind, rest, u, [_], hp, by rw [hu]; simp [hp], h.trans hf⟩)))
  · obtain ⟨u, rs, hf, hu, -⟩ := finishRead_effect k kind w ((s.tracker (reqOf k)).answer (readResult s.layout kind w)) s
    exact .inr (.inr (.inr (.inl ⟨kind, rest, u, rs, hp, by rw [hu]; simp [hp], h.trans hf⟩)))

theorem effect_device {k : ChipId} {s t : State} {f : Chip → Host.Outcome State Fault Refusal}
    (h : onDevice k s f = .next t) (hf : f (s.chip k) = .next t → Effect k s t) : Effect k s t := by
  rcases onDevice_next h with ⟨-, h⟩ | ⟨-, h⟩
  · exact .inl h
  · exact hf h

theorem effect_bare {k : ChipId} {w : Word} {s t : State} (h : bareCommand k w s = .next t) : Effect k s t := by
  unfold bareCommand at h
  split at h
  · exact effect_device h fun h => by cases h
  · exact effect_accept h

theorem effect_answer (k : ChipId) (s : State) (w : Word) (n : Nat) : Effect k s ((s.took n).respond w) :=
  .inr (.inr (.inl ⟨w, n, rfl⟩))

theorem effect_scAnswer (k : ChipId) (s : State) (chip : ChipId) (sub : BitVec 3) (row col d n : Nat) :
    Effect k s (scAnswer chip sub row col (d, s.took n)) :=
  .inr (.inr (.inl ⟨_, n, rfl⟩))

theorem State.took_zero (s : State) : s.took 0 = s := rfl

theorem effect_readData (k : ChipId) (s : State) (chip : ChipId) (sub : BitVec 3) (row col a : Nat) (m : Memory Nat) :
    Effect k s (scAnswer chip sub row col (readData s m a)) := by
  rcases readData_spec s m a with ⟨v, -, h⟩ | ⟨-, v, h, -⟩ <;> rw [h]
  · exact effect_scAnswer k s chip sub row col v 0
  · exact effect_scAnswer k s chip sub row col v 1

/-- Everything an instruction can do: an empty word nothing, any other what a word of its chip may. -/
theorem exec_next {i : Instr} {s t : State} (h : exec i s = .next t) :
    (i = .empty ∧ t = s) ∨ ∃ k, i.chip = some k ∧ Effect k s t := by
  cases i with
  | empty => exact .inl ⟨rfl, (Host.Outcome.next.inj h).symm⟩
  | dlSet k a v =>
    simp only [exec, execDlSet] at h
    refine .inr ⟨k, rfl, effect_device h fun h => ?_⟩
    split at h <;> cases h
    exact effect_setChip ⟨rfl, rfl, rfl⟩
  | event k m s0 s1 s2 =>
    refine .inr ⟨k, rfl, ?_⟩
    simp only [exec, execEvent] at h
    split at h
    · refine effect_device h fun h => ?_
      cases h
      exact effect_setChip ⟨rfl, rfl, rfl⟩
    · cases h
      exact .inr (.inr (.inr (.inr ⟨_, rfl⟩)))
  | errorResp k rwb cmd ci => exact .inr ⟨k, rfl, effect_accept h⟩
  | sync k rwb ci => exact .inr ⟨k, rfl, effect_bare h⟩
  | loopback k rwb ci => exact .inr ⟨k, rfl, effect_bare h⟩
  | prWrite k a p1 p2 p3 =>
    simp only [exec, execPrWrite] at h
    refine .inr ⟨k, rfl, effect_device h fun h => ?_⟩
    split at h <;> cases h
    exact effect_setChip ⟨rfl, rfl, rfl⟩
  | prRead k a =>
    simp only [exec, execPrRead] at h
    refine .inr ⟨k, rfl, effect_device h fun h => ?_⟩
    split at h
    · cases h
      rcases readTriple_spec s (s.chip k).pram a with ⟨v, -, h⟩ | ⟨-, v, h, -⟩ <;> rw [h]
      · exact effect_answer k s _ 0
      · exact effect_answer k s _ 3
    · cases h
  | prReadResp k a p1 p2 p3 => exact .inr ⟨k, rfl, effect_accept h⟩
  | prPeriod k v =>
    simp only [exec, execPrPeriod] at h
    refine .inr ⟨k, rfl, effect_device h fun h => ?_⟩
    cases h
    exact effect_setChip ⟨rfl, rfl, rfl⟩
  | prLut k idx time boost rep step =>
    simp only [exec, execPrLut] at h
    refine .inr ⟨k, rfl, effect_device h fun h => ?_⟩
    split at h <;> cases h
    exact effect_setChip ⟨rfl, rfl, rfl⟩
  | prCount k v =>
    simp only [exec, execPrCount] at h
    refine .inr ⟨k, rfl, effect_device h fun h => ?_⟩
    cases h
    exact effect_setChip ⟨rfl, rfl, rfl⟩
  | ctrlWrite k val fmask =>
    simp only [exec, execCtrlWrite] at h
    refine .inr ⟨k, rfl, effect_device h fun h => ?_⟩
    cases h
    exact effect_setChip ⟨rfl, rfl, rfl⟩
  | statusRead0 k =>
    simp only [exec, execStatusRead0] at h
    refine .inr ⟨k, rfl, effect_device h fun h => ?_⟩
    cases h
    exact effect_answer k s _ 0
  | statusRead1 k =>
    simp only [exec, execStatusRead1] at h
    refine .inr ⟨k, rfl, effect_device h fun h => ?_⟩
    cases h
    exact effect_answer k s _ 2
  | statusRead2 k =>
    simp only [exec, execStatusRead2] at h
    refine .inr ⟨k, rfl, effect_device h fun h => ?_⟩
    cases h
    exact effect_answer k s _ 2
  | statusRead3 k =>
    simp only [exec, execStatusRead3] at h
    refine .inr ⟨k, rfl, effect_device h fun h => ?_⟩
    cases h
    exact effect_answer k s _ 4
  | statusResp0 k ctrl rev => exact .inr ⟨k, rfl, effect_accept h⟩
  | statusResp1 k fstat fpos => exact .inr ⟨k, rfl, effect_accept h⟩
  | statusResp2 k fstat fpos => exact .inr ⟨k, rfl, effect_accept h⟩
  | statusResp3 k fstat fpos hinib pll => exact .inr ⟨k, rfl, effect_accept h⟩
  | scCtrlR k =>
    simp only [exec, execScCtrlR] at h
    refine .inr ⟨k, rfl, effect_device h fun h => ?_⟩
    cases h
    exact effect_scAnswer k s _ _ _ _ _ 0
  | scTimeW k v =>
    simp only [exec, execScTimeW] at h
    refine .inr ⟨k, rfl, effect_device h fun h => ?_⟩
    cases h
    exact effect_setChip ⟨rfl, rfl, rfl⟩
  | scTimeR k =>
    simp only [exec, execScTimeR] at h
    refine .inr ⟨k, rfl, effect_device h fun h => ?_⟩
    cases h
    rcases readReg_spec s (s.chip k).sctime s.layout.scData.width with ⟨-, h⟩ | ⟨-, v, h, -⟩ <;> rw [h]
    · exact effect_scAnswer k s _ _ _ _ _ 0
    · exact effect_scAnswer k s _ _ _ _ _ 1
  | scPlutW k row col d =>
    simp only [exec, execScPlutW] at h
    refine .inr ⟨k, rfl, effect_device h fun h => ?_⟩
    obtain ⟨-, -, -, h⟩ := onElement_next h
    cases h
    exact effect_setChip ⟨rfl, rfl, rfl⟩
  | scPlutR k row col =>
    simp only [exec, execScPlutR] at h
    refine .inr ⟨k, rfl, effect_device h fun h => ?_⟩
    obtain ⟨-, -, -, h⟩ := onElement_next h
    cases h
    exact effect_readData k s _ _ _ _ _ _
  | scSynW k row col d =>
    simp only [exec, execScSynW] at h
    refine .inr ⟨k, rfl, effect_device h fun h => ?_⟩
    obtain ⟨-, -, -, h⟩ := onElement_next h
    cases h
    exact effect_setChip ⟨rfl, rfl, rfl⟩
  | scSynR k row col =>
    simp only [exec, execScSynR] at h
    refine .inr ⟨k, rfl, effect_device h fun h => ?_⟩
    obtain ⟨-, -, -, h⟩ := onElement_next h
    cases h
    exact effect_readData k s _ _ _ _ _ _
  | scClose k =>
    simp only [exec, execScClose] at h
    refine .inr ⟨k, rfl, effect_device h fun h => ?_⟩
    obtain ⟨-, h⟩ := whileIdle_next h
    cases h
    exact .inl rfl
  | scCorRead k col =>
    simp only [exec, execScCorRead] at h
    refine .inr ⟨k, rfl, effect_device h fun h => ?_⟩
    split at h <;> cases h
    exact effect_scAnswer k s _ _ _ _ _ 1
  | scPcor k =>
    simp only [exec, execScPcor] at h
    refine .inr ⟨k, rfl, effect_device h fun h => ?_⟩
    obtain ⟨-, h⟩ := whileIdle_next h
    cases h
    exact effect_setChip ⟨rfl, rfl, rfl⟩
  | scPcorc k =>
    simp only [exec, execScPcorc] at h
    refine .inr ⟨k, rfl, effect_device h fun h => ?_⟩
    obtain ⟨-, h⟩ := whileIdle_next h
    cases h
    exact effect_setChip ⟨rfl, rfl, rfl⟩
  | scResp k sub row col d => exact .inr ⟨k, rfl, effect_accept h⟩
  | areadout k rwb ci => exact .inr ⟨k, rfl, effect_bare h⟩
  | evloopback k rwb ci => exact .inr ⟨k, rfl, effect_bare h⟩
  | dummycmd k rwb ci => exact .inr ⟨k, rfl, effect_bare h⟩

end Sys2Proof.Machine
end

