-- ==== Sys2Proof/Laws/PerInstr.lean ====
section
/-! SUPPORT. The family `FieldsFit`: in every well-formed layout the fields of an instruction's word lie inside the 64
bits and do not overlap (30_encoding R91 to R99, 00_scope R10 (a), (b)). -/

namespace Sys2Proof.Laws.FieldsFit

/-- The fields of the instruction's word lie inside the word and do not overlap. -/
def Statement (i : Instr) : Prop :=
  ∀ L : Layout, L.wf = true → fieldsOk 0 64 ((i.fields L).map (·.1)) = true

theorem rawCommand (chipId rwb cmd ci : Nat) :
    fieldsOk 0 64 ((rawCommandFields chipId rwb cmd ci).map (·.1)) = true :=
  fieldsOk_command _ _ _ _ rfl

theorem synapse {L : Layout} (h : L.wf = true) (chipId rwb sub row col data : Nat) :
    fieldsOk 0 64 ((scFields L chipId rwb sub row col data).map (·.1)) = true :=
  fieldsOk_command _ _ _ _ (Layout.wf_sc h)

theorem statusRead {L : Layout} (h : L.wf = true) (chipId sel : Nat) :
    fieldsOk 0 64 ((statusReadFields L chipId sel).map (·.1)) = true :=
  fieldsOk_command _ _ _ _ (fieldsOk_sublist (Layout.wf_status0 h) (by simp))

theorem statusFifo {L : Layout} (h : L.wf = true) (chipId sel fstat fpos : Nat) :
    fieldsOk 0 64 ((statusFifoFields L chipId sel fstat fpos).map (·.1)) = true :=
  fieldsOk_command _ _ _ _ (fieldsOk_sublist (Layout.wf_status3 h) (by simp))

theorem empty : Statement .empty := fun _ _ => rfl

theorem dlSet (chip : ChipId) (adr : Nat) (val : BitVec 3) : Statement (.dlSet chip adr val) :=
  fun _ h => Layout.wf_delay h

theorem event (chip : ChipId) (tmsb : BitVec 4) (s0 s1 s2 : Slot) : Statement (.event chip tmsb s0 s1 s2) :=
  fun _ _ => by
    simp only [Instr.fields, Slot.fields, slotFields, List.map_append, List.map_cons, List.map_nil]
    decide

theorem errorResp (chip : ChipId) (rwb : BitVec 1) (cmd : BitVec 4) (ci : BitVec 53) :
    Statement (.errorResp chip rwb cmd ci) := fun _ _ => rawCommand _ _ _ _

theorem sync (chip : ChipId) (rwb : BitVec 1) (ci : BitVec 53) : Statement (.sync chip rwb ci) :=
  fun _ _ => rawCommand _ _ _ _

theorem loopback (chip : ChipId) (rwb : BitVec 1) (ci : BitVec 53) : Statement (.loopback chip rwb ci) :=
  fun _ _ => rawCommand _ _ _ _

theorem prWrite (chip : ChipId) (adr p1 p2 p3 : Nat) : Statement (.prWrite chip adr p1 p2 p3) :=
  fun _ h => fieldsOk_command _ _ _ _ (Layout.wf_prEntry h)

theorem prRead (chip : ChipId) (adr : Nat) : Statement (.prRead chip adr) :=
  fun _ h => fieldsOk_command _ _ _ _ (fieldsOk_sublist (Layout.wf_prEntry h) (by simp))

theorem prReadResp (chip : ChipId) (adr p1 p2 p3 : Nat) : Statement (.prReadResp chip adr p1 p2 p3) :=
  fun _ h => fieldsOk_command _ _ _ _ (Layout.wf_prEntry h)

theorem prPeriod (chip : ChipId) (period : Nat) : Statement (.prPeriod chip period) :=
  fun _ h => fieldsOk_command _ _ _ _ (Layout.wf_prPeriod h)

theorem prLut (chip : ChipId) (idx time boost rep step : Nat) : Statement (.prLut chip idx time boost rep step) :=
  fun _ h => fieldsOk_command _ _ _ _ (Layout.wf_prLut h)

theorem prCount (chip : ChipId) (count : Nat) : Statement (.prCount chip count) :=
  fun _ h => fieldsOk_command _ _ _ _ (Layout.wf_prCount h)

theorem ctrlWrite (chip : ChipId) (val : BitVec 32) (fmask : BitVec 8) : Statement (.ctrlWrite chip val fmask) :=
  fun _ h => fieldsOk_command _ _ _ _ (Layout.wf_ctrlWrite h)

theorem statusRead0 (chip : ChipId) : Statement (.statusRead0 chip) := fun _ h => statusRead h _ _

theorem statusRead1 (chip : ChipId) : Statement (.statusRead1 chip) := fun _ h => statusRead h _ _

theorem statusRead2 (chip : ChipId) : Statement (.statusRead2 chip) := fun _ h => statusRead h _ _

theorem statusRead3 (chip : ChipId) : Statement (.statusRead3 chip) := fun _ h => statusRead h _ _

theorem statusResp0 (chip : ChipId) (ctrl : BitVec 32) (rev : Nat) : Statement (.statusResp0 chip ctrl rev) :=
  fun _ h => fieldsOk_command _ _ _ _ (Layout.wf_status0 h)

theorem statusResp1 (chip : ChipId) (fstat : BitVec 4) (fpos : Nat) : Statement (.statusResp1 chip fstat fpos) :=
  fun _ h => statusFifo h _ _ _ _

theorem statusResp2 (chip : ChipId) (fstat : BitVec 4) (fpos : Nat) : Statement (.statusResp2 chip fstat fpos) :=
  fun _ h => statusFifo h _ _ _ _

theorem statusResp3 (chip : ChipId) (fstat : BitVec 4) (fpos : Nat) (hinib : BitVec 4) (pll : BitVec 1) :
    Statement (.statusResp3 chip fstat fpos hinib pll) :=
  fun _ h => fieldsOk_command _ _ _ _ (Layout.wf_status3 h)

theorem scCtrlR (chip : ChipId) : Statement (.scCtrlR chip) := fun _ h => synapse h _ _ _ _ _ _

theorem scTimeW (chip : ChipId) (data : Nat) : Statement (.scTimeW chip data) := fun _ h => synapse h _ _ _ _ _ _

theorem scTimeR (chip : ChipId) : Statement (.scTimeR chip) := fun _ h => synapse h _ _ _ _ _ _

theorem scPlutW (chip : ChipId) (row col data : Nat) : Statement (.scPlutW chip row col data) :=
  fun _ h => synapse h _ _ _ _ _ _

theorem scPlutR (chip : ChipId) (row col : Nat) : Statement (.scPlutR chip row col) :=
  fun _ h => synapse h _ _ _ _ _ _

theorem scSynW (chip : ChipId) (row col data : Nat) : Statement (.scSynW chip row col data) :=
  fun _ h => synapse h _ _ _ _ _ _

theorem scSynR (chip : ChipId) (row col : Nat) : Statement (.scSynR chip row col) :=
  fun _ h => synapse h _ _ _ _ _ _

theorem scClose (chip : ChipId) : Statement (.scClose chip) := fun _ h => synapse h _ _ _ _ _ _

theorem scCorRead (chip : ChipId) (col : Nat) : Statement (.scCorRead chip col) :=
  fun _ h => synapse h _ _ _ _ _ _

theorem scPcor (chip : ChipId) : Statement (.scPcor chip) := fun _ h => synapse h _ _ _ _ _ _

theorem scPcorc (chip : ChipId) : Statement (.scPcorc chip) := fun _ h => synapse h _ _ _ _ _ _

theorem scResp (chip : ChipId) (sub : BitVec 3) (row col data : Nat) : Statement (.scResp chip sub row col data) :=
  fun _ h => synapse h _ _ _ _ _ _

theorem areadout (chip : ChipId) (rwb : BitVec 1) (ci : BitVec 53) : Statement (.areadout chip rwb ci) :=
  fun _ _ => rawCommand _ _ _ _

theorem evloopback (chip : ChipId) (rwb : BitVec 1) (ci : BitVec 53) : Statement (.evloopback chip rwb ci) :=
  fun _ _ => rawCommand _ _ _ _

theorem dummycmd (chip : ChipId) (rwb : BitVec 1) (ci : BitVec 53) : Statement (.dummycmd chip rwb ci) :=
  fun _ _ => rawCommand _ _ _ _

end Sys2Proof.Laws.FieldsFit
end

