-- ==== Sys2Proof/Laws/Requests.lean ====
section
/-! SUPPORT. Everything REQ's step on a request can do, said once (41_packet_framer R149). -/

namespace Sys2Proof.Machine

/-- The request returns without sending: a result is reported, truncations may be logged, nothing else changes. -/
def ReportedOnly (s t : State) : Prop :=
  ∃ chipId r os, t = { s with results := s.results ++ [(chipId, r)], overflowLog := s.overflowLog ++ os }

/-- The fields of a word that a request for chip id `c` builds: a command, a delay-line word, an event word. -/
def RequestFields (L : Layout) (c : Nat) (fields : List (Field × Nat)) : Prop :=
  (∃ rwb cmd rest, fields = commandFields c rwb cmd ++ rest ∧
      (L.wf = true → fieldsOk 11 64 (rest.map (·.1)) = true)) ∨ (∃ a v, fields = delayFields L c a v) ∨
    ∃ es, fields = eventFields L c es

/-- The request comes to the issue of its word, in the mode it needs, for the chip id it names. -/
def Issued (r : Request) (s t : State) : Prop :=
  ∃ (c : ReqId) (fields : List (Field × Nat)) (read : Option ReadKind) (update : Tracker → Tracker)
    (os : List Overflow),
    r.target = some c.val ∧ issue c r.addressMode fields read update (s.logOverflows os) = .next t ∧
      (∀ u, (update u).pending = u.pending ∧ (update u).batch = u.batch ∧ (update u).readsSent = u.readsSent ∧
        (update u).answers = u.answers) ∧ RequestFields s.layout c.val fields

theorem State.logOverflows_nil (s : State) : s.logOverflows [] = s := by simp [State.logOverflows]

theorem reportedOnly_report (s : State) (chipId : Option Nat) (r : Result) (os : List Overflow) :
    ReportedOnly s ((s.logOverflows os).report chipId r) :=
  ⟨chipId, r, os, by simp [State.report, State.logOverflows]⟩

theorem reportedOnly_result (s : State) (chipId : Option Nat) (r : Result) : ReportedOnly s (s.report chipId r) := by
  have := reportedOnly_report s chipId r []
  rwa [State.logOverflows_nil] at this

theorem reportedOnly_raise (s : State) (chipId : Option Nat) (e : ErrorKind) : ReportedOnly s (s.raise chipId e) :=
  reportedOnly_result s chipId (.error e)

theorem finishCodec_next {α : Type} {chipId : Option Nat} {s t : State} {value : α → Value}
    {e : Except ErrorKind (α × List Overflow)} (h : finishCodec chipId s value e = .next t) : ReportedOnly s t := by
  cases e with
  | ok p =>
    cases h
    exact reportedOnly_report _ _ _ _
  | error e =>
    cases h
    exact reportedOnly_raise _ _ _

/-- A request that validates its chip id: the error, or what comes after. -/
theorem withChipId_next {chipId : Nat} {s t : State} {f : ReqId → Host.Outcome State Fault Refusal}
    (h : withChipId chipId s f = .next t) : ReportedOnly s t ∨ ∃ hc : chipId < 16, f ⟨chipId, hc⟩ = .next t := by
  rcases withChipId_cases chipId s f with ⟨-, he⟩ | ⟨hc, he⟩
  · rw [he] at h
    cases h
    exact .inl (reportedOnly_raise _ _ _)
  · exact .inr ⟨hc, he ▸ h⟩

theorem issued_of {r : Request} {s t : State} {c : Nat} (hc : c < 16) {fields : List (Field × Nat)}
    {read : Option ReadKind} {update : Tracker → Tracker} (os : List Overflow)
    (h : issue ⟨c, hc⟩ r.addressMode fields read update (s.logOverflows os) = .next t) (ht : r.target = some c)
    (hu : ∀ u, (update u).pending = u.pending ∧ (update u).batch = u.batch ∧ (update u).readsSent = u.readsSent ∧
      (update u).answers = u.answers) (hf : RequestFields s.layout c fields) :
    ReportedOnly s t ∨ Issued r s t :=
  .inr ⟨⟨c, hc⟩, fields, read, update, os, ht, h, hu, hf⟩

/-- Everything a request can do: it returns without sending, or it issues its word. -/
theorem runRequest_next {r : Request} {s t : State} (h : runRequest r s = .next t) :
    ReportedOnly s t ∨ Issued r s t := by
  have h0 := s.logOverflows_nil
  cases r with
  | extract w p n => exact .inl (finishCodec_next h)
  | insert w p n v => exact .inl (finishCodec_next h)
  | classify w =>
    cases h
    exact .inl (reportedOnly_result s _ _)
  | classifyCommand p =>
    cases h
    exact .inl (reportedOnly_result s _ _)
  | build c e p => exact .inl (finishCodec_next h)
  | buildCommand c rwb cmd ci => exact .inl (finishCodec_next h)
  | decodeStatus n w => exact .inl (finishCodec_next h)
  | unpackEvents w =>
    cases h
    exact .inl (reportedOnly_result s _ _)
  | buildControlWrite c m =>
    simp only [runRequest, requestControlWrite] at h
    rcases withChipId_next h with h | ⟨hc, h⟩
    · exact .inl h
    · refine issued_of hc _ h rfl (fun u => ?_) (.inl ⟨_, _, _, rfl, Layout.wf_ctrlWrite⟩)
      unfold Tracker.afterControl
      split <;> exact ⟨rfl, rfl, rfl, rfl⟩
  | buildStatusRead c n =>
    simp only [runRequest, requestStatusRead] at h
    rcases withChipId_next h with h | ⟨hc, h⟩
    · exact .inl h
    · split at h
      · cases h
        exact .inl (reportedOnly_raise _ _ _)
      · exact issued_of hc [] (h0.symm ▸ h) rfl (fun u => ⟨rfl, rfl, rfl, rfl⟩)
          (.inl ⟨_, _, _, rfl, fun hw =>
            fieldsOk_sublist (Layout.wf_status0 hw) (by simp)⟩)
  | writeParam c a x y z =>
    simp only [runRequest, requestWriteParam] at h
    rcases withChipId_next h with h | ⟨hc, h⟩
    · exact .inl h
    · split at h
      · exact issued_of hc [] (h0.symm ▸ h) rfl (fun u => ⟨rfl, rfl, rfl, rfl⟩) (.inl ⟨_, _, _, rfl, Layout.wf_prEntry⟩)
      · cases h
        exact .inl (reportedOnly_raise _ _ _)
  | readParam c a =>
    simp only [runRequest, requestReadParam] at h
    rcases withChipId_next h with h | ⟨hc, h⟩
    · exact .inl h
    · split at h
      · exact issued_of hc [] (h0.symm ▸ h) rfl (fun u => ⟨rfl, rfl, rfl, rfl⟩)
          (.inl ⟨_, _, _, rfl, fun hw =>
            fieldsOk_sublist (Layout.wf_prEntry hw) (by simp)⟩)
      · cases h
        exact .inl (reportedOnly_raise _ _ _)
  | writePeriod c n =>
    simp only [runRequest, requestWritePeriod] at h
    rcases withChipId_next h with h | ⟨hc, h⟩
    · exact .inl h
    · exact issued_of hc [] (h0.symm ▸ h) rfl (fun u => ⟨rfl, rfl, rfl, rfl⟩) (.inl ⟨_, _, _, rfl, Layout.wf_prPeriod⟩)
  | writeLookupEntry c idx time boost rep step =>
    simp only [runRequest, requestWriteLookup] at h
    rcases withChipId_next h with h | ⟨hc, h⟩
    · exact .inl h
    · exact issued_of hc [] (h0.symm ▸ h) rfl (fun u => ⟨rfl, rfl, rfl, rfl⟩) (.inl ⟨_, _, _, rfl, Layout.wf_prLut⟩)
  | writeParamCount c n =>
    simp only [runRequest, requestWriteCount] at h
    rcases withChipId_next h with h | ⟨hc, h⟩
    · exact .inl h
    · exact issued_of hc [] (h0.symm ▸ h) rfl (fun u => ⟨rfl, rfl, rfl, rfl⟩) (.inl ⟨_, _, _, rfl, Layout.wf_prCount⟩)
  | packEvents c es =>
    simp only [runRequest, requestPackEvents] at h
    rcases withChipId_next h with h | ⟨hc, h⟩
    · exact .inl h
    · split at h
      · cases h
      · split at h
        · exact issued_of hc [] (h0.symm ▸ h) rfl (fun u => ⟨rfl, rfl, rfl, rfl⟩) (.inr (.inr ⟨_, rfl⟩))
        · cases h
  | setDelay l v c =>
    simp only [runRequest, requestSetDelay] at h
    split at h
    · cases h
      exact .inl (reportedOnly_raise _ _ _)
    · split at h
      · cases h
        exact .inl (reportedOnly_raise _ _ _)
      · rcases withChipId_next h with h | ⟨hc, h⟩
        · exact .inl h
        · exact issued_of hc [] (h0.symm ▸ h) rfl (fun u => ⟨rfl, rfl, rfl, rfl⟩) (.inr (.inl ⟨_, _, rfl⟩))
  | synapse c op row col data =>
    simp only [runRequest, requestSynapse] at h
    rcases withChipId_next h with h | ⟨hc, h⟩
    · exact .inl h
    · split at h
      · cases h
      · split at h
        · cases h
          exact .inl (reportedOnly_report _ _ _ _)
        · cases h
        · exact issued_of hc _ h rfl (fun u => ⟨rfl, rfl, rfl, rfl⟩) (.inl ⟨_, _, _, rfl, Layout.wf_sc⟩)
  | misc c cmd rwb ci =>
    simp only [runRequest, requestMisc] at h
    rcases withChipId_next h with h | ⟨hc, h⟩
    · exact .inl h
    · exact issued_of hc [] (h0.symm ▸ h) rfl (fun u => ⟨rfl, rfl, rfl, rfl⟩) (.inl ⟨_, _, _, rfl, fun _ => rfl⟩)

end Sys2Proof.Machine
end

