-- ==== Sys2Proof/Machine/Printer.lean ====
section
/-! DEFINITION. The printer of requests and of environment actions: one line of text each (30_encoding R121, R122).
Numbers are written in decimal. Operations without a word of their own have no mnemonic, hence no line (R105, R19). -/

namespace Sys2Proof

/-- `name=value` (R121). -/
def operandText (name : String) (value : Nat) : String := name ++ "=" ++ Nat.repr value

/-- A line: the mnemonic, then the operands, comma separated (R121). -/
def lineText (mnemonic : String) (operands : List String) : String :=
  mnemonic ++ " " ++ ", ".intercalate operands

/-- The name of a field of the control register (R28). -/
def ControlField.text : ControlField → String
  | .anaclkEn => "anaclk_en" | .anaclkhiEn => "anaclkhi_en" | .pramEn => "pram_en" | .errOutEn => "err_out_en"
  | .earlydebug => "earlydebug" | .einRst => "ein_rst" | .einbRst => "einb_rst" | .eoutRst => "eout_rst"

/-- A set of control fields, between braces (characters 123 and 125) (R121). -/
def ControlMap.text (m : ControlMap) : String :=
  String.singleton (Char.ofNat 123)
    ++ ", ".intercalate (ControlField.all.filterMap fun f => (m.get f).map (operandText f.text))
    ++ String.singleton (Char.ofNat 125)

/-- A valid event record, `(t=…, n=…, b=…)` (R121). -/
def EventRequest.text (e : EventRequest) : String :=
  "(" ++ ", ".intercalate
    [operandText "t" e.absoluteTime.toNat, operandText "n" e.neuronAddress, operandText "b" e.timeBin] ++ ")"

/-- The mnemonic of one of the five bare commands (R105). -/
def MiscCmd.text : MiscCmd → String
  | .sync => "SYNC" | .loopback => "LOOPBACK" | .areadout => "AREADOUT" | .evloopback => "EVLOOPBACK"
  | .dummycmd => "DUMMYCMD"

/-- A synapse-control request: the mnemonic and the operands the operation uses (R105, R246). -/
def ScOp.text (op : ScOp) (chipId row col data : Nat) : String :=
  let c := operandText "c" chipId
  match op with
  | .ctrlR => lineText "SC.CTRL.R" [c]
  | .timeW => lineText "SC.TIME.W" [c, operandText "d" data]
  | .timeR => lineText "SC.TIME.R" [c]
  | .plutW => lineText "SC.PLUT.W" [c, operandText "row" row, operandText "col" col, operandText "d" data]
  | .plutR => lineText "SC.PLUT.R" [c, operandText "row" row, operandText "col" col]
  | .synW => lineText "SC.SYN.W" [c, operandText "row" row, operandText "col" col, operandText "d" data]
  | .synR => lineText "SC.SYN.R" [c, operandText "row" row, operandText "col" col]
  | .close => lineText "SC.CLOSE" [c]
  | .corRead => lineText "SC.COR_READ" [c, operandText "col" col]
  | .pcor => lineText "SC.PCOR" [c]
  | .pcorc => lineText "SC.PCORC" [c]

/-- The line of a request that makes a word; none for the others, which have no mnemonic (R105, R121). An
invalid event record has no form of text and is left out (notes/assumptions/27). -/
def Request.text : Request → Option String
  | .extract _ _ _ => none
  | .insert _ _ _ _ => none
  | .classify _ => none
  | .classifyCommand _ => none
  | .build _ _ _ => none
  | .buildCommand _ _ _ _ => none
  | .decodeStatus _ _ => none
  | .unpackEvents _ => none
  | .buildControlWrite c m => some (lineText "CTRL.WRITE" [operandText "c" c, m.text])
  | .buildStatusRead c sel => some (lineText "STATUS.READ" [operandText "c" c, operandText "sel" sel])
  | .writeParam c a p1 p2 p3 =>
    some (lineText "PR.WRITE" [operandText "c" c, operandText "a" a, operandText "p1" p1, operandText "p2" p2,
      operandText "p3" p3])
  | .readParam c a => some (lineText "PR.READ" [operandText "c" c, operandText "a" a])
  | .writePeriod c cycles => some (lineText "PR.PERIOD" [operandText "c" c, operandText "cycles" cycles])
  | .writeLookupEntry c index time boost rep step =>
    some (lineText "PR.LUT" [operandText "c" c, operandText "index" index, operandText "time" time,
      operandText "boost" boost, operandText "repeat" rep, operandText "step" step])
  | .writeParamCount c n => some (lineText "PR.COUNT" [operandText "c" c, operandText "n" n])
  | .packEvents c events =>
    some (lineText "EVENT" (operandText "c" c :: (events.filter (·.valid)).map EventRequest.text))
  | .setDelay l v c => some (lineText "DL.SET" [operandText "c" c, operandText "l" l, operandText "v" v])
  | .synapse c op row col data => some (op.text c row col data)
  | .misc c cmd rwb ci =>
    some (lineText cmd.text [operandText "c" c, operandText "rwb" rwb.toNat, operandText "ci" ci])

/-- The line of an environment action that a program may write: the pin and the reset (R121). -/
def EnvAction.text : EnvAction → Option String
  | .addrMode x => some ("ENV " ++ operandText "addr_mode" x.toNat)
  | .reset => some "ENV reset"
  | .setCmerr _ => none
  | .restartEncodeFace => none
  | .foreignRequest _ => none
  | .foreignResponse _ => none
  | .flipRequest _ => none
  | .flipResponse _ => none

end Sys2Proof
end

