-- ==== Sys2Proof/Tests/Slice0.lean ====
section
/-! SUPPORT. Tests: the smoke test of the well-formedness checks, words written out from the spec's encodings and
worked examples (95_test_vectors; the rule's own example where a comment names the rule), one small step per
instruction, and a witness for the hypotheses of every statement. -/

namespace Sys2Proof.Tests

open Sys2Proof Sys2Proof.Machine

/-! Helpers. The bench is the machine after reset with `REVISION` = 5 in every chip, as the spec's examples have it. -/

def benchChip : Chip := Chip.reset .reference true 5 []

def bench : State := { State.reset with chips := Vector.replicate 15 benchChip }

/-- The bench with chip 3 changed. -/
def with3 (f : Chip → Chip) : State := bench.setChip 3 (f benchChip)

/-- The bench with the tracker of chip 3 changed, words taken by RSP. -/
def track3 (f : Tracker → Tracker) : State := { bench.setTracker 3 (f .reset) with side := .requester }

/-- The bench with one read of chip 3 in flight, words taken by RSP. -/
def awaiting (kind : ReadKind) : State := track3 fun t => { t with pending := [kind] }

def nextIs (o : Host.Outcome State Fault Refusal) (p : State → Bool) : Bool :=
  match o with
  | .next t => p t
  | _ => false

def refusedBy (o : Host.Outcome State Fault Refusal) (r : Refusal) : Bool :=
  match o with
  | .refused r' => r' == r
  | _ => false

/-- The request sends exactly this word. -/
def sends (r : Request) (s : State) (w : Word) : Bool := nextIs (runRequest r s) fun t => t.toDevice == [w]

/-- The request ends in this error and sends nothing. -/
def fails (r : Request) (s : State) (e : ErrorKind) : Bool :=
  nextIs (runRequest r s) fun t => t.toDevice == [] && (t.results.map (·.2) == [.error e])

/-- The device answers the word of the instruction with this word. -/
def answers (i : Instr) (s : State) (w : Word) : Bool := nextIs (exec i s) fun t => t.toRequester == [w]

/-- RSP returns this value for the word. -/
def returns (w : Word) (s : State) (v : Value) : Bool :=
  nextIs (responseWord w s) fun t => t.results == [(some 3, .ok v)] && (t.tracker 3).pending == []

/-! Well-formedness: one ill-formed term per check. -/

theorem test_wf_refuses_delay_and_error :
    Instr.wf .reference (.dlSet 3 64 0#3) = false ∧ Instr.wf .reference (.errorResp 3 0#1 4#4 0#53) = false := by decide

theorem test_wf_refuses_param :
    ([.prWrite 3 8192 0 0 0, .prWrite 3 0 1024 0 0, .prWrite 3 0 0 1024 0, .prWrite 3 0 0 0 1024, .prRead 3 8192,
      .prReadResp 3 8192 0 0 0, .prReadResp 3 0 1024 0 0, .prReadResp 3 0 0 1024 0, .prReadResp 3 0 0 0 1024,
      .prPeriod 3 65536, .prLut 3 16 0 0 0 0, .prLut 3 0 16 0 0 0, .prLut 3 0 0 16 0 0, .prLut 3 0 0 0 16 0,
      .prLut 3 0 0 0 0 16, .prCount 3 8192] : List Instr).all (fun i => !Instr.wf .reference i) = true := by decide

theorem test_wf_refuses_status :
    ([.statusResp0 3 0#32 16, .statusResp1 3 0#4 256, .statusResp2 3 0#4 256, .statusResp3 3 0#4 256 0#4 0#1] :
      List Instr).all (fun i => !Instr.wf .reference i) = true := by decide

theorem test_wf_refuses_synapse :
    ([.scTimeW 3 16777216, .scPlutW 3 256 0 0, .scPlutW 3 0 64 0, .scPlutW 3 0 0 16777216, .scPlutR 3 256 0,
      .scPlutR 3 0 64, .scSynW 3 256 0 0, .scSynW 3 0 64 0, .scSynW 3 0 0 16777216, .scSynR 3 256 0, .scSynR 3 0 64,
      .scCorRead 3 64, .scResp 3 0#3 256 0 0, .scResp 3 0#3 0 64 0, .scResp 3 0#3 0 0 16777216] :
      List Instr).all (fun i => !Instr.wf .reference i) = true := by decide

/-- The reference layout is well formed, also with a field of no bits inside another (D29), and each part of R10 refuses
a layout that breaks it. -/
theorem test_layout_wf :
    Layout.wf .reference = true ∧ Layout.wf { Layout.reference with prPeriod := ⟨12, 0⟩ } = true ∧
    ([{ Layout.reference with cmdLoopback := 0x0 }, { Layout.reference with cmdSynram := 0x9 },
      { Layout.reference with cmdErrflag := 2 }, { Layout.reference with crEinRstPos := 1 },
      { Layout.reference with crEoutRstPos := 25 }, { Layout.reference with crFmask := ⟨45, 7⟩ },
      { Layout.reference with crFmask := ⟨44, 8⟩ }, { Layout.reference with stDataPos := 12 },
      { Layout.reference with fsErr := 2 }, { Layout.reference with prSub := ⟨11, 1⟩ },
      { Layout.reference with prP3Pos := 55 }, { Layout.reference with prBankSize := [16] },
      { Layout.reference with prCount := ⟨13, 12⟩ }, { Layout.reference with lutN := 17 },
      { Layout.reference with scSub := ⟨11, 2⟩ }, { Layout.reference with scRows := 257 },
      { Layout.reference with scCmerrOff := 0 }, { Layout.reference with scDoneOff := 24 },
      { Layout.reference with dlAdr := ⟨4, 6⟩ }, { Layout.reference with dlAdr := ⟨6, 5⟩ },
      { Layout.reference with absTimeW := 9 }, { Layout.reference with evValidPolarity := 2 }] :
      List Layout).all (fun L => !L.wf) = true := by decide

/-! Decoding: a word per constructor, written out from the spec. -/

/-- F2, F9 (R111): an empty word in either mode. -/
theorem test_decode_empty :
    decodeDevice .reference false 0x000000000000003C#64 = .ok .empty ∧
    decodeDevice .reference true 0xFFFFFFFFFFFFFFFF#64 = .ok .empty := by decide

/-- L2, L3 (R98). -/
theorem test_decode_delay :
    decodeDevice .reference true 0x00000000000078CC#64 = .ok (.dlSet 3 35 7#3) ∧
    decodeDevice .reference true 0x000000000000544C#64 = .ok (.dlSet 3 17 5#3) := by decide

/-- E4 (R93): all thirteen fields. -/
theorem test_decode_event :
    decodeDevice .reference false 0x552AFFFFC00003C9#64 =
      .ok (.event 2 1#4 ⟨1#1, 0#4, 0#4, 0#9⟩ ⟨1#1, 15#4, 15#4, 0x1FF#9⟩ ⟨1#1, 5#4, 5#4, 0x0AA#9⟩) := by decide

/-- X1 to X6 (R99). -/
theorem test_decode_misc :
    decodeDevice .reference false 0x000000000000004C#64 = .ok (.sync 3 1#1 0#53) ∧
    decodeDevice .reference false 0x0091A2B3C4D5E14C#64 = .ok (.loopback 3 1#1 0x0123456789ABC#53) ∧
    decodeDevice .reference false 0x000000000000050C#64 = .ok (.areadout 3 0#1 0#53) ∧
    decodeDevice .reference false 0x000000000000064C#64 = .ok (.evloopback 3 1#1 0#53) ∧
    decodeDevice .reference false 0x000000000000070C#64 = .ok (.dummycmd 3 0#1 0#53) := by decide

/-- M1, M2, M4, M9, M11, M13 (R96). -/
theorem test_decode_param :
    decodeDevice .reference false 0x000781402800A20C#64 = .ok (.prWrite 3 5 10 20 30) ∧
    decodeDevice .reference false 0x00FFC00FFFA3E20C#64 = .ok (.prWrite 3 7455 1023 0 1023) ∧
    decodeDevice .reference false 0x0000000003A3E24C#64 = .ok (.prRead 3 7455) ∧
    decodeDevice .reference false 0x00000000007D0A0C#64 = .ok (.prPeriod 3 1000) ∧
    decodeDevice .reference false 0x00000000CA86520C#64 = .ok (.prLut 3 2 3 4 5 6) ∧
    decodeDevice .reference false 0x0000000003A41A0C#64 = .ok (.prCount 3 7456) := by decide

/-- K1, K6, K8 (R94). -/
theorem test_decode_control :
    decodeDevice .reference false 0x000080000000830C#64 = .ok (.ctrlWrite 3 4#32 4#8) ∧
    decodeDevice .reference false 0x001FFFFFFFE3E30C#64 = .ok (.ctrlWrite 3 0xFFFFFF1F#32 0xFF#8) ∧
    decodeDevice .reference false 0x000000000000034C#64 = .ok (.statusRead0 3) ∧
    decodeDevice .reference false 0x0000000000000B4C#64 = .ok (.statusRead1 3) ∧
    decodeDevice .reference false 0x000000000000134C#64 = .ok (.statusRead2 3) ∧
    decodeDevice .reference false 0x0000000000001B4C#64 = .ok (.statusRead3 3) := by decide

/-- Y1 to Y10 (R97). -/
theorem test_decode_synapse :
    decodeDevice .reference false 0x000000000000044C#64 = .ok (.scCtrlR 3) ∧
    decodeDevice .reference false 0x00000BEEF0000C0C#64 = .ok (.scTimeW 3 0xBEEF) ∧
    decodeDevice .reference false 0x0000000000000C4C#64 = .ok (.scTimeR 3) ∧
    decodeDevice .reference false 0x00000000F080D40C#64 = .ok (.scPlutW 3 3 2 0xF) ∧
    decodeDevice .reference false 0x000000000080D44C#64 = .ok (.scPlutR 3 3 2) ∧
    decodeDevice .reference false 0x000ABCDEF0411C0C#64 = .ok (.scSynW 3 4 1 0xABCDEF) ∧
    decodeDevice .reference false 0x000000000000DC4C#64 = .ok (.scSynR 3 3 0) ∧
    decodeDevice .reference false 0x000000000000240C#64 = .ok (.scClose 3) ∧
    decodeDevice .reference false 0x0000000001402C4C#64 = .ok (.scCorRead 3 5) ∧
    decodeDevice .reference false 0x000000000000340C#64 = .ok (.scPcor 3) ∧
    decodeDevice .reference false 0x0000000000003C0C#64 = .ok (.scPcorc 3) := by decide

/-- M2, K9, K11 to K13, Y2, X7 (R95, R107, R282): the same bits read by what is pending. -/
theorem test_decode_responses :
    decodeResponse .reference (fun _ => some (.param 5)) 0x000781402800A24C#64 = .ok (.prReadResp 3 5 10 20 30) ∧
    decodeResponse .reference (fun _ => some (.status 0#2)) 0x0000BFFFFFE0034C#64 =
      .ok (.statusResp0 3 0xFFFFFF00#32 5) ∧
    decodeResponse .reference (fun _ => some (.status 1#2)) 0x000000000042AB4C#64 = .ok (.statusResp1 3 5#4 0x21) ∧
    decodeResponse .reference (fun _ => some (.status 2#2)) 0x000000000000134C#64 = .ok (.statusResp2 3 0#4 0) ∧
    decodeResponse .reference (fun _ => some (.status 3#2)) 0x0000000034FF1B4C#64 =
      .ok (.statusResp3 3 8#4 0x7F 0xA#4 1#1) ∧
    decodeResponse .reference (fun _ => some (.synram .syn)) 0x000123456000DC4C#64 =
      .ok (.scResp 3 3#3 3 0 0x123456) ∧
    decodeResponse .reference (fun _ => some (.param 5)) 0x000000000000A2CC#64 = .ok (.errorResp 3 1#1 5#4 0x14#53) := by
  decide

/-- M16, Y14, X9 (R114, R115): refused by name. -/
theorem test_decode_reserved :
    decodeDevice .reference false 0x0000000003A41A4C#64 = .error (.reservedCombination 4 1 3) ∧
    decodeDevice .reference false 0x000000000000040C#64 = .error (.reservedCombination 8 0 0) ∧
    decodeDevice .reference false 0x000000000000A2CC#64 = .error (.errorFlagOnRequest 5) := by decide

/-- The words of 95_test_vectors are the encoder's. -/
theorem test_encode :
    encode .reference (.prWrite 3 5 10 20 30) = 0x000781402800A20C#64 ∧
    encode .reference (.ctrlWrite 3 0xFFFFFF1F#32 0xFF#8) = 0x001FFFFFFFE3E30C#64 ∧
    encode .reference (.statusResp3 3 8#4 0x7F 0xA#4 1#1) = 0x0000000034FF1B4C#64 ∧
    encode .reference (.scSynW 3 4 1 0xABCDEF) = 0x000ABCDEF0411C0C#64 ∧
    encode .reference (.dlSet 3 35 7#3) = 0x00000000000078CC#64 ∧
    encode .reference (.event 2 0xA#4 ⟨1#1, 7#4, 3#4, 0x155#9⟩ ⟨1#1, 0#4, 9#4, 1#9⟩ ⟨0#1, 0#4, 0#4, 0#9⟩) =
      0x000000642AA6F4C9#64 := by decide

/-! The host's entry points. -/

theorem test_table_word :
    decodeTableWord 64 0x000781402800A20C = some (.prWrite 3 5 10 20 30) ∧
    decodeTableWord 64 0x000000000000A2CC = some (.errorResp 3 1#1 5#4 0x14#53) ∧
    decodeTableWord 64 0x000000000000040C = none := by decide

theorem test_fetch_word :
    nextIs (step (bench.withFetchWord 64 0x000781402800A20C)) (fun t => (t.chip 3).pram.read 5 == some ⟨10, 20, 30⟩)
      = true ∧
    nextIs (step (bench.withFetchWord 64 0x000000000000A2CC))
      (fun t => t.results == [(some 3, .error (.deviceErrorFlag 4 0x14#53))]) = true := by decide

/-! The codec and the framer. -/

/-- B1, B2, B5, B10, B12 (R131). -/
theorem test_insert :
    codecInsert 0#64 4 8 0x1FF = .ok (0xFF0#64, [⟨⟨4, 8⟩, 0x1FF, 0xFF⟩]) ∧
    codecInsert 0xFFFFFFFFFFFFFFFF#64 60 4 0 = .ok (0x0FFFFFFFFFFFFFFF#64, []) ∧
    codecInsert 0#64 63 1 3 = .ok (0x8000000000000000#64, [⟨⟨63, 1⟩, 3, 1⟩]) ∧
    codecInsert 0x1234#64 10 0 1 = .ok (0x1234#64, [⟨⟨10, 0⟩, 1, 0⟩]) ∧
    codecInsert 0#64 64 1 0 = .error (.outOfRange 64 1) := by decide

/-- B6, B8, B9, B11 (R130). -/
theorem test_extract :
    codecExtract 0xFEDCBA9876543210#64 12 16 = .ok 0x6543 ∧
    codecExtract 0xFFFFFFFFFFFFFFFF#64 0 64 = .ok 0xFFFFFFFFFFFFFFFF ∧
    codecExtract 7#64 64 0 = .ok 0 ∧ codecExtract 7#64 60 5 = .error (.outOfRange 60 5) := by decide

/-- F3, F5, F6, F7, F8, F10 (R141, R143, R146). -/
theorem test_framer :
    build 5 true (2 ^ 58 - 1) = .ok (0xFFFFFFFFFFFFFFD5#64, []) ∧
    build 16 false 0 = .error (.invalidChipId 16) ∧
    build 3 false (2 ^ 58) = .ok (0xC#64, [⟨⟨6, 58⟩, 2 ^ 58, 0⟩]) ∧
    classify 0x000781402800A20C#64 = ⟨3#4, false, 0x1E0500A00288#58⟩ ∧
    classify 0x000000000000000E#64 = ⟨3#4, false, 0#58⟩ ∧
    classifyCommand 0x1E0500A00288#58 = ⟨0#1, 4#4, false, 0xF028050014#53⟩ := by decide

/-- E2, E5, E7, E12 (R212, R216). -/
theorem test_events :
    assemble (eventFields .reference 2 [⟨0xA3#8, 0x155, 7, true⟩]) = 0x000000002AA6F449#64 ∧
    assemble (eventFields .reference 2 [⟨0#8, 0x3FF, 0x1F, true⟩]) = 0x000000003FE1E049#64 ∧
    assemble (eventFields { Layout.reference with evValidPolarity := 0 } 2 [⟨0xA3#8, 0x155, 7, true⟩])
      = 0x000000002AA6F589#64 ∧
    unpackEvents .reference 0x552A800000602349#64 = [⟨0x10#8, 3#9, 1#4, true⟩, ⟨0x15#8, 0xAA#9, 5#4, true⟩] := by decide

/-- E13 (R219). -/
theorem test_compress :
    (compressGroups [⟨0xA3#8, 1, 0, true⟩, ⟨0xA9#8, 2, 1, true⟩, ⟨0#8, 0, 0, false⟩, ⟨0xB1#8, 3, 2, true⟩,
      ⟨0xB2#8, 4, 3, true⟩, ⟨0xB3#8, 5, 4, true⟩, ⟨0xB4#8, 6, 5, true⟩]).map
        (fun g => assemble (eventFields .reference 2 g)) =
      [0x000000A4402614C9#64, 0x029A0108C06257C9#64, 0x0000000000C8B649#64] := by decide

/-! One step per instruction. -/

theorem test_exec_empty : nextIs (exec .empty bench) (fun t => t == bench) = true := by decide

/-- L3 (R235) and L10 (R117). -/
theorem test_exec_dlSet :
    nextIs (exec (.dlSet 3 17 5#3) bench) (fun t => (t.chip 3).dl == [(17, 5#3)] && (t.chip 4).dl == []) = true ∧
    refusedBy (exec (.dlSet 3 60 0#3) bench) .undefinedEncoding = true := by decide

/-- E5 (R216) at the device and at RSP. -/
theorem test_exec_event :
    nextIs (deviceWord 0x552A800000602349#64 bench)
      (fun t => (t.chip 2).evOut == [⟨0x10#8, 3#9, 1#4, true⟩, ⟨0x15#8, 0xAA#9, 5#4, true⟩]) = true ∧
    nextIs (responseWord 0x552A800000602349#64 (awaiting (.param 0)))
      (fun t => t.evDelivered.length == 2 && (t.tracker 3).pending == [.param 0]) = true := by decide

/-- X7 (R282). -/
theorem test_exec_errorResp :
    nextIs (responseWord 0x000000000000A2CC#64 (awaiting (.param 5)))
      (fun t => t.results == [(some 3, .error (.deviceErrorFlag 4 0x14#53))] && (t.tracker 3).pending == []) = true := by
  decide

/-- X8 (R275): refused at the device, with either value of `cmdrwb`; returned raw at RSP (R281). -/
theorem test_exec_bare :
    ([.sync 3 0#1 0#53, .loopback 3 1#1 0#53, .areadout 3 0#1 0#53, .evloopback 3 1#1 0#53, .dummycmd 3 0#1 0#53] :
      List Instr).all (fun i => refusedBy (exec i bench) .unmodelled) = true ∧
    ([.sync, .loopback, .areadout, .evloopback, .dummycmd] : List MiscCmd).all (fun m =>
      returns (encode .reference (decodeMisc m 3 0x0091A2B3C4D5E14C#64)) (awaiting (.misc m))
        (.raw 0x0123456789ABC#53)) = true := by decide

/-- M1 (R185) and M7 at the device (R190). -/
theorem test_exec_prWrite :
    nextIs (exec (.prWrite 3 5 10 20 30) bench) (fun t => (t.chip 3).pram == [(5, ⟨10, 20, 30⟩)]) = true ∧
    refusedBy (exec (.prWrite 3 7456 0 0 0) bench) .undefinedEncoding = true := by decide

/-- M2 (R187). -/
theorem test_exec_prRead :
    answers (.prRead 3 5) (with3 fun c => { c with pram := [(5, ⟨10, 20, 30⟩)] }) 0x000781402800A24C#64 = true := by decide

/-- M2, M17 (R186, R195). -/
theorem test_exec_prReadResp :
    returns 0x000781402800A24C#64 (awaiting (.param 5)) (.triple ⟨10, 20, 30⟩) = true ∧
    nextIs (responseWord 0x000781602800A24C#64
        (track3 fun t => { t with pending := [.param 5], batch := some ⟨0, [], some (5, ⟨10, 20, 30⟩), false⟩ }))
      (fun t => (t.tracker 3).vfail == [⟨5, ⟨10, 20, 30⟩, ⟨10, 22, 30⟩⟩]) = true := by decide

/-- M9 (R191). -/
theorem test_exec_prPeriod :
    nextIs (exec (.prPeriod 3 1000) bench) (fun t => (t.chip 3).period == ⟨1000, true⟩) = true := by decide

/-- M11 (R192). -/
theorem test_exec_prLut :
    nextIs (exec (.prLut 3 2 3 4 5 6) bench) (fun t => (t.chip 3).lut == [(2, ⟨3, 4, 5, 6⟩)]) = true := by decide

/-- M13 (R193). -/
theorem test_exec_prCount :
    nextIs (exec (.prCount 3 7456) bench) (fun t => (t.chip 3).pcount == ⟨7456, true⟩) = true := by decide

/-- K1 and K6 (R158): bits 7:5 stay 0. -/
theorem test_exec_ctrlWrite :
    nextIs (exec (.ctrlWrite 3 4#32 4#8) bench) (fun t => (t.chip 3).cr == 0xFFFFFF04#32) = true ∧
    nextIs (exec (.ctrlWrite 3 0xFFFFFFFF#32 0xFF#8) bench) (fun t => (t.chip 3).cr == 0xFFFFFF1F#32) = true := by decide

/-- K9, K10 (R161). -/
theorem test_exec_statusRead0 :
    answers (.statusRead0 3) bench 0x0000BFFFFFE0034C#64 = true ∧
    answers (.statusRead0 3) (with3 fun c => { c with cr := 0xFFFFFF04#32 }) 0x0000BFFFFFE0834C#64 = true := by decide

/-- R162 to R164: one answer, inputs drawn, the device unchanged. -/
theorem test_exec_statusReads :
    ([(.statusRead1 3, 2), (.statusRead2 3, 2), (.statusRead3 3, 4)] : List (Instr × Nat)).all (fun p =>
      nextIs (exec p.1 bench) fun t => t.toRequester.length == 1 && t.draws == p.2 && t.chips == bench.chips) = true := by
  decide

/-- K9 (R165, R168). -/
theorem test_exec_statusResp0 :
    returns 0x0000BFFFFFE0034C#64 (awaiting (.status 0#2))
      (.status (.control 0xFFFFFF00#32 5 ⟨false, false, false, false, false, 0xFF#8, 0xFF#8, 0xFF#8⟩)) = true := by decide

/-- K11 (R165). -/
theorem test_exec_statusResp1 :
    returns 0x000000000042AB4C#64 (awaiting (.status 1#2)) (.status (.clkFifo ⟨true, false, true, false⟩ 0x21)) = true := by
  decide

/-- K12 (R165). -/
theorem test_exec_statusResp2 :
    returns 0x000000000000134C#64 (awaiting (.status 2#2)) (.status (.clkbFifo ⟨false, false, false, false⟩ 0)) = true := by
  decide

/-- K13 (R165), and K16: the echoed selector is not checked. -/
theorem test_exec_statusResp3 :
    returns 0x0000000034FF1B4C#64 (awaiting (.status 3#2))
      (.status (.clkhiFifo ⟨false, false, false, true⟩ 0x7F 0xA#4 true)) = true ∧
    returns 0x0000000034FF1B4C#64 (awaiting (.status 1#2)) (.status (.clkFifo ⟨false, false, false, true⟩ 0x7F)) = true := by
  decide

/-- Y8 (R250). -/
theorem test_exec_scCtrlR :
    answers (.scCtrlR 3) (with3 fun c => { c with done := true }) 0x000000001000044C#64 = true ∧
    answers (.scCtrlR 3) (with3 fun c => { c with cmerr := true }) 0x000000002000044C#64 = true := by decide

/-- Y9 (R251). -/
theorem test_exec_scTime :
    nextIs (exec (.scTimeW 3 0xBEEF) bench) (fun t => (t.chip 3).sctime == ⟨0xBEEF, true⟩) = true ∧
    answers (.scTimeR 3) (with3 fun c => { c with sctime := ⟨0xBEEF, true⟩ }) 0x00000BEEF0000C4C#64 = true := by decide

/-- Y4, Y5 (R252): row 3, column 2 is element 3 · 64 + 2. -/
theorem test_exec_scPlut :
    nextIs (exec (.scPlutW 3 3 2 0xF) bench) (fun t => (t.chip 3).plut == [(194, 0xF)]) = true ∧
    answers (.scPlutR 3 3 2) (with3 fun c => { c with plut := [(194, 0xF)] }) 0x00000000F080D44C#64 = true := by decide

/-- Y1, Y2 (R253). -/
theorem test_exec_scSyn :
    nextIs (exec (.scSynW 3 3 0 0x123456) bench) (fun t => (t.chip 3).syn == [(192, 0x123456)]) = true ∧
    answers (.scSynR 3 3 0) (with3 fun c => { c with syn := [(192, 0x123456)] }) 0x000123456000DC4C#64 = true := by decide

/-- R256, and R249 during a pass. -/
theorem test_exec_scClose :
    nextIs (exec (.scClose 3) bench) (fun t => t == bench) = true ∧
    refusedBy (exec (.scClose 3) (with3 fun c => { c with busy := true })) .unspecifiedTransition = true := by decide

/-- Y10 (R258): a draw, also during a pass. -/
theorem test_exec_scCorRead :
    nextIs (exec (.scCorRead 3 5) (with3 fun c => { c with busy := true }))
      (fun t => t.toRequester.length == 1 && t.draws == 1) = true := by decide

/-- Step 7 of program P3 (R259, R260): `DONE` is cleared. -/
theorem test_exec_scPcor :
    ([.scPcor 3, .scPcorc 3] : List Instr).all (fun i => nextIs (exec i (with3 fun c => { c with done := true }))
      fun t => (t.chip 3).busy && !(t.chip 3).done) = true := by decide

/-- Steps 8 and 10 of program P3 (R250, R262), and the `cmerr` case below it (R264). -/
theorem test_exec_scResp :
    nextIs (responseWord 0x000000001000044C#64
        (track3 fun t => { t with pending := [.synram .ctrl], row := .processing 4 }))
      (fun t => (t.tracker 3).row == .idle && t.results == [(some 3, .ok (.ctrl true false))]) = true ∧
    nextIs (responseWord 0x000000003000044C#64
        (track3 fun t => { t with pending := [.synram .ctrl], row := .processing 4 }))
      (fun t => (t.tracker 3).row == .processing 4 && (t.tracker 3).poison &&
        t.results == [(some 3, .error .commandDecodeError)]) = true := by decide

/-- Step 9 of program P3 (R263, R265): `PLUT` survives, no entry of `SYN` is known. -/
theorem test_completion :
    let t := completionStep 3 (with3 fun c => { c with busy := true, syn := [(1, 2)], plut := [(3, 4)] })
    (t.chip 3).busy = false ∧ (t.chip 3).done = true ∧ (t.chip 3).syn = [] ∧ (t.chip 3).plut = [(3, 4)] := by decide

/-! The encode face. -/

/-- K7, K14, M6, M7, M8, Y11 (R157, R160, R183, R184, R248). -/
theorem test_requests :
    sends (.buildControlWrite 3 { einRst := some 0x1FF }) bench 0x000400001FE0030C#64 = true ∧
    fails (.buildStatusRead 3 4) bench (.unknownSelector 4) = true ∧
    nextIs (runRequest (.writeParam 3 8 1034 20 30) bench)
      (fun t => t.toDevice == [0x000781402801020C#64] && t.overflowLog == [⟨⟨26, 10⟩, 1034, 10⟩] && t.fovf) = true ∧
    fails (.readParam 3 7456) bench (.addressOutOfRange 7456) = true ∧
    fails (.writeParam 16 7456 0 0 0) bench (.invalidChipId 16) = true ∧
    nextIs (runRequest (.synapse 3 .synW 259 0 1) bench)
      (fun t => t.toDevice == [0x000000001000DC0C#64] && (t.tracker 3).row == .rowOpen 3 && t.fovf) = true := by decide

/-- L6 to L9, E8, E9, Y13 (R234, R237, R213, R261, R310). -/
theorem test_refused_requests :
    fails (.setDelay 36 8 16) bench (.invalidAddress 36) = true ∧
    fails (.setDelay 0 0 16) bench (.invalidChipId 16) = true ∧
    refusedBy (runRequest (.setDelay 0 0 3) bench) .modeViolation = true ∧
    refusedBy (runRequest (.packEvents 2 [⟨0xA3#8, 1, 0, true⟩, ⟨0xB1#8, 2, 0, true⟩]) bench) .timeMsbMismatch = true ∧
    refusedBy (runRequest (.packEvents 2 (List.replicate 4 ⟨0xA3#8, 1, 0, true⟩)) bench) .tooManyEvents = true ∧
    refusedBy (runRequest (.synapse 3 .close 0 0 0) bench) .unspecifiedTransition = true := by decide

/-- A request of each form, operands too wide where they may be. -/
def formsOfRequest : List Request :=
  [.buildControlWrite 3 { pramEn := some 3, eoutRst := some 0x1FF }, .buildStatusRead 3 0, .buildStatusRead 3 1,
    .buildStatusRead 3 2, .buildStatusRead 3 3, .writeParam 3 7455 1025 2049 4097, .readParam 3 7455, .writePeriod 3 65537,
    .writeLookupEntry 3 17 18 19 20 21, .writeParamCount 3 8193,
    .packEvents 3 [⟨0xA3#8, 513, 17, true⟩, ⟨0#8, 600, 99, false⟩, ⟨0xA4#8, 514, 18, true⟩], .packEvents 3 [],
    .synapse 3 .ctrlR 9 9 9, .synapse 3 .timeW 9 9 0x1000001, .synapse 3 .timeR 9 9 9,
    .synapse 3 .plutW 259 65 0x1000001, .synapse 3 .plutR 259 65 9, .synapse 3 .synW 259 65 0x1000001,
    .synapse 3 .synR 259 65 9, .synapse 3 .corRead 9 65 9, .misc 3 .sync true (2 ^ 53 + 1), .misc 3 .loopback false 2,
    .misc 3 .areadout true 3, .misc 3 .evloopback false 4, .misc 3 .dummycmd true 5]

/-- What is sent decodes to what the request stands for, `PENDING` gains its read, the log its truncations. -/
def sendsItself (s : State) (r : Request) : Bool :=
  nextIs (runRequest r s) fun t =>
    match t.toDevice, r.sends s.layout 3 with
    | [w], some i => decide (decodeDevice s.layout s.addrMode w = .ok i) && (t.tracker 3).pending == r.reads.toList
        && t.overflowLog == r.truncations s.layout
    | _, _ => false

theorem test_requests_send :
    formsOfRequest.all (sendsItself bench) = true ∧
    ([.synapse 3 .close 9 9 9, .synapse 3 .pcor 9 9 9, .synapse 3 .pcorc 9 9 9] : List Request).all
      (sendsItself (bench.setTracker 3 { Tracker.reset with row := .rowOpen 3 })) = true ∧
    sendsItself { bench with addrMode := true } (.setDelay 35 7 3) = true := by decide
/-- R239: a read sent to chip id 15 does not hold the pin, one of a chip on the link does. -/
theorem test_mode_change :
    nextIs (runEnv (.addrMode true) (bench.setTracker 15 { Tracker.reset with pending := [.param 0] }))
      (fun t => t.addrMode) = true ∧
    refusedBy (runEnv (.addrMode true) (awaiting (.param 0))) .modeViolation = true := by decide

/-- R81, R83: the instance 4 answers before the instance 3 whose word is older. -/
theorem test_devices_interleave :
    takeFor 4 [0x000000000000044C#64, 0x0000000000000450#64, 0x000000000000144C#64] =
      some (0x0000000000000450#64, [0x000000000000044C#64, 0x000000000000144C#64]) := by decide

/-- R150, R305: a read holds its caller until it is answered, for ever where it is not (chip id 15), and no other caller. -/
theorem test_reads_block :
    let s : State := { bench with
      scripts := [[.request (.readParam 15 0), .request (.writePeriod 3 1)],
        [.request (.buildStatusRead 3 0), .request (.writeParamCount 3 2)]] }
    nextIs (runSteps 3 s) (fun t => t.script 0 == [.await 15 0, .request (.writePeriod 3 1)] &&
      t.script 1 == [.await 3 0, .request (.writeParamCount 3 2)] && t.waits 1 (.await 3 0)) = true ∧
    nextIs (runSteps 8 s) (fun t => t.script 0 == [.await 15 0, .request (.writePeriod 3 1)] && t.script 1 == [] &&
      t.results.length == 2) = true ∧
    nextIs (step { s with scripts := [[.await 15 0]], schedule := [.req 0] })
      (fun t => t.script 0 == [.await 15 0]) = true := by decide

/-- R334: after a read was lost to a reset, the answer to a later read of the chip is not taken for its own. -/
theorem test_lost_read :
    let s : State := { bench with scripts := [[.request (.buildStatusRead 3 0)], [.request (.buildStatusRead 3 0)]] }
    nextIs (runSteps 7 { s with schedule := [.req 0, .env .reset, .req 1, .dev, .rsp, .req 1, .req 0] })
      (fun t => t.script 0 == [.await 3 0] && t.script 1 == [] && t.results.length == 1) = true := by decide

/-- R262, R123: a poll of chip id 16 ends in `InvalidChipId`; a poll whose read a reset has taken waits (R334). -/
theorem test_poll :
    let s : State := { bench with scripts := [[.poll 16], [.poll 3]] }
    nextIs (runSteps 3 s) (fun t => t.script 0 == [] && t.results.map (·.2) == [.error (.invalidChipId 16)]) = true ∧
    nextIs (runSteps 4 { s with schedule := [.req 1, .env .reset, .req 1, .req 1] })
      (fun t => t.script 1 == [.pollTest 3 0] && t.results == []) = true := by decide

/-- R196, R343: a batch begun while another read of its chip is in flight is a concurrent issue. -/
theorem test_verify_meanwhile :
    refusedBy (runSteps 2 { awaiting (.param 0) with
        scripts := [[.verify 3 [(5, ⟨1, 2, 3⟩)]]], schedule := [.req 0, .req 0] }) .concurrentIssue = true := by decide

/-- R53: what was written is shown on the ports, and the register field by field. -/
theorem test_outputs :
    let s := with3 fun c => { c with dl := [(35, 7#3)], pram := [(5, ⟨10, 20, 30⟩)] }
    s.dlOut 3 35 0 = 7#3 ∧ s.pramPort 3 5 0 = some ⟨10, 20, 30⟩ ∧ s.pramPort 3 7456 0 = none ∧
    ((s.chip 3).crOut .reference).eoutRst = 0xFF#8 := by decide

/-! Witnesses: for every statement with hypotheses, states and operands that meet them, at the ends of their ranges. -/

/-- The word of `PR.WRITE c=3, a=5`, DEV named by the schedule and by default, and the instance behind another chip's
word; a response at RSP; the second caller's action, and the first caller with one by default. -/
theorem witness_StepRunsDecodedWord :
    bench.layout.wf = true ∧
    decodeDevice bench.layout bench.addrMode 0x000781402800A20C#64 = .ok (.prWrite 3 5 10 20 30) ∧
    ({ bench with toDevice := [0x000781402800A20C#64], schedule := [.dev] } : State).schedule = [.dev] ∧
    ({ bench with toDevice := [0x000781402800A20C#64] } : State).schedule = [] ∧
    ({ bench with toDevice := [0x000781402800A20C#64] } : State).toRequester = [] ∧
    ({ bench with toDevice := [0x000781402800A210#64, 0x000781402800A20C#64], schedule := [.devOf 3] } : State).toDevice =
      [0x000781402800A210#64] ++ 0x000781402800A20C#64 :: [] ∧
    get 0x000781402800A210#64 Field.chipid ≠ 3 ∧ get 0x000781402800A20C#64 Field.chipid = 3 ∧
    decodeResponse bench.layout (awaiting (.param 5)).oldestPending 0x000781402800A24C#64 =
      .ok (.prReadResp 3 5 10 20 30) ∧
    (let s : State := { bench with scripts := [[.await 3 0], [.poll 3]] };
      s.script 1 = .poll 3 :: [] ∧ s.waits 1 (.poll 3) = false ∧ s.script 0 = .await 3 0 :: [] ∧
        s.waits 0 (.await 3 0) = true) := by decide

theorem witness_StepOnUndecodedWord :
    decodeDevice bench.layout bench.addrMode 0x000000000000040C#64 = .error (.reservedCombination 8 0 0) ∧
    bench.addressed 0x000000000000040C#64 = true ∧
    (with3 fun c => { c with present := false }).addressed 0x000000000000040C#64 = false ∧
    decodeResponse bench.layout bench.oldestPending 0x000781402800A24C#64 = .error (.nothingPending 3) := by decide

/-- Operands at the ends of their fields. -/
theorem witness_PacketRequestsRoundTrip :
    Layout.reference.wf = true ∧
    ([.prWrite 14 8191 1023 1023 1023, .scSynW 0 255 63 16777215, .ctrlWrite 3 0xFFFFFFFF#32 0xFF#8, .empty,
      .prLut 3 15 15 15 15 15, .dummycmd 3 1#1 0x1FFFFFFFFFFFFF#53] : List Instr).all
      (fun i => i.wf .reference && i.isPacketRequest) = true := by decide

theorem witness_ResponsesRoundTrip :
    ([(.prReadResp 14 8191 1023 1023 1023, .param 0), (.statusResp3 0 15#4 255 15#4 1#1, .status 3#2),
      (.scResp 3 7#3 255 63 16777215, .synram .syn), (.errorResp 3 1#1 15#4 0#53, .misc .sync),
      (.sync 3 1#1 0#53, .misc .sync)] : List (Instr × ReadKind)).all
      (fun p => p.1.wf .reference && p.1.chip.isSome && p.1.answers p.2) = true := by decide

theorem witness_DelayWordsRoundTrip :
    Layout.reference.wf = true ∧ (35 < 36 ∧ 15 < 16 ∧ 7 < 8) ∧
    assemble (delayFields .reference 15 35 7) = assemble (delayFields .reference 15 35 7) := by decide

theorem witness_DecodedIsWellFormed :
    decodeDevice .reference true 0x0000000000000F0C#64 = .ok (.dlSet 3 60 0#3) ∧
    decodeResponse .reference (fun _ => some (.param 5)) 0x000000000000A2CC#64 = .ok (.errorResp 3 1#1 5#4 0x14#53) := by
  decide

/-- A word for each of the reserved combinations. -/
theorem witness_ReservedEncodingsRefused :
    bench.layout.wf = true ∧ bench.addrMode = false ∧ (bench.chip 3).present = true ∧
    ([0x00000000000000CC#64, 0x0000000000000A4C#64, 0x000000000000124C#64, 0x0000000000001A4C#64, 0x000000000000040C#64,
      0x0000000000002C0C#64, 0x000000000000244C#64, 0x000000000000344C#64, 0x0000000000003C4C#64] : List Word).all (fun w =>
        get w Field.chipid == 3 && get w Field.eventp == 0 &&
        (get w Field.cmd % 2 == 1 ||
          (get w Field.cmd == 4 && get w Field.cmdrwb == 1 && get w bench.layout.prSub != 0) ||
          (get w Field.cmd == 8 && get w Field.cmdrwb == 0 &&
            (get w bench.layout.scSub == 0 || get w bench.layout.scSub == 5)) ||
          (get w Field.cmd == 8 && get w Field.cmdrwb == 1 &&
            (get w bench.layout.scSub == 4 || get w bench.layout.scSub == 6 || get w bench.layout.scSub == 7)))) = true := by
  decide

theorem witness_EmptyWordsSkipped :
    get 0xFFFFFFFFFFFFFFFF#64 Field.chipid = 15 ∧ get 0x000000000000003C#64 Field.chipid = 15 ∧
    ({ bench with schedule := [.dev], toDevice := [0x3C#64] } : State).layout.wf = true ∧
    ({ bench with schedule := [.rsp], toRequester := [0x3C#64] } : State).layout.wf = true := by decide

theorem witness_AbsentChipSkips :
    (with3 fun c => { c with present := false }).side = .device ∧
    ((with3 fun c => { c with present := false }).chip 3).present = false ∧
    (Instr.scPcor 3).chip = some 3 ∧ (Instr.scPcor 3).isPacketRequest = true ∧
    (Instr.dlSet 3 0 0#3).chip = some 3 ∧ ∃ a v, Instr.dlSet 3 0 0#3 = .dlSet 3 a v :=
  ⟨by decide, by decide, rfl, rfl, rfl, 0, 0#3, rfl⟩

/-- The first number beyond each array; an idle and a busy chip. -/
theorem witness_DeviceRefusals :
    (bench.chip 3).present = true ∧ (bench.chip 3).busy = false ∧ bench.layout.prTotal ≤ 7456 ∧ 36 ≤ 36 ∧
    bench.layout.lutN ≤ 16 ∧ bench.layout.scCols ≤ 64 ∧ bench.layout.scRows ≤ 256 ∧
    ((with3 fun c => { c with busy := true }).chip 3).present = true ∧
    ((with3 fun c => { c with busy := true }).chip 3).busy = true := by decide

/-- A present chip over a well-formed layout: RegisterWritesStore, CtrlWriteIsMasked, StatusReadsAnswer. -/
theorem witness_PresentChip : (bench.chip 3).present = true ∧ bench.layout.wf = true := by decide

theorem witness_MaskedWriteLaws :
    Layout.reference.wf = true ∧ (0x0F#8 &&& 0xF0#8 = 0#8) ∧ (0x0F#8 &&& 0xFF#8 = 0x0F#8) ∧
    crReservedZero .reference 0xFFFFFF1F#32 = true := by decide

theorem witness_ControlRequestNamesFields :
    bench.layout.wf = true ∧ bench.addrMode = false ∧ (bench.tracker (reqOf 3)).pending = [] ∧
    ControlMap.get { eoutRst := some 0x1FF } .eoutRst = some 0x1FF ∧
    ControlMap.get { eoutRst := some 0x1FF } .pramEn = none := by decide

/-- The last address. -/
theorem witness_ParamWriteStores : (bench.chip 3).present = true ∧ 7455 < bench.layout.prTotal := by decide

theorem witness_ParamReadAnswers :
    7455 < bench.layout.prTotal ∧ ((with3 fun c => { c with pram := [(7455, ⟨1023, 0, 1023⟩)] }).chip 3).present = true ∧
    ((with3 fun c => { c with pram := [(7455, ⟨1023, 0, 1023⟩)] }).chip 3).pram.read 7455 = some ⟨1023, 0, 1023⟩ ∧
    ((with3 fun c => { c with pram := [(7455, ⟨1023, 0, 1023⟩)] }).chip 3).pram.read 7454 = none := by decide

theorem witness_TableWritesStore : (bench.chip 3).present = true ∧ 15 < bench.layout.lutN ∧ 35 < 36 := by decide

/-- One valid slot of three. -/
theorem witness_EventWordsDeliver :
    [(⟨0#1, 0#4, 0#4, 0#9⟩ : Slot), ⟨1#1, 15#4, 15#4, 0x1FF#9⟩, ⟨0#1, 0#4, 0#4, 0#9⟩].filterMap (fun x =>
      if x.valid.toNat = bench.layout.evValidPolarity
      then some (⟨BitVec.ofNat 8 (16 * (15#4).toNat + x.tlsb.toNat), x.nadr, x.tbin, true⟩ : Event) else none)
      = [⟨0xFF#8, 0x1FF#9, 15#4, true⟩] ∧
    bench.side = .device ∧ (bench.chip 3).present = true ∧ (awaiting (.param 0)).side = .requester := by decide

theorem witness_SynapseRegisterReadsAnswer :
    bench.layout.wf = true ∧ (bench.chip 3).present = true ∧ (bench.chip 3).sctime.defined = false ∧
    ((with3 fun c => { c with sctime := ⟨7, true⟩ }).chip 3).present = true ∧
    ((with3 fun c => { c with sctime := ⟨7, true⟩ }).chip 3).sctime.defined = true ∧ 63 < bench.layout.scCols := by decide

/-- The last row and column: SynapseWritesStore and SynapseReadsAnswer. -/
theorem witness_SynapseAccess :
    let s := with3 fun c => { c with syn := [(16383, 1)], plut := [(16383, 2)] }
    (s.chip 3).present = true ∧ (s.chip 3).busy = false ∧ 255 < s.layout.scRows ∧ 63 < s.layout.scCols ∧
    (s.chip 3).plut.read (synapseIndex s.layout 255 63) = some 2 ∧
    (s.chip 3).plut.read (synapseIndex s.layout 0 0) = none ∧
    (s.chip 3).syn.read (synapseIndex s.layout 255 63) = some 1 ∧
    (s.chip 3).syn.read (synapseIndex s.layout 0 0) = none ∧ 62 < s.layout.scCols ∧ (255, 62) ≠ (255, 63) := by decide

theorem witness_RowDirectivesAtDevice : (bench.chip 3).present = true ∧ (bench.chip 3).busy = false := by decide

theorem witness_CompletionStepEndsPass :
    bench.layout.wf = true ∧ ({ bench with schedule := [.cor 3] } : State).schedule = [.cor 3] ∧
    (bench.chip 3).busy = false ∧ ((with3 fun c => { c with busy := true }).chip 3).busy = true := by decide

theorem witness_ParamResponseReturns :
    (awaiting (.param 5)).layout.wf = true ∧ Instr.wf .reference (.prReadResp 3 8191 1023 1023 1023) = true ∧
    ((awaiting (.param 5)).tracker (reqOf 3)).pending = [.param 5] ∧
    ((awaiting (.param 5)).tracker (reqOf 3)).batch = none ∧
    ((track3 fun t => { t with pending := [.param 5], batch := some ⟨0, [], some (5, ⟨1, 2, 3⟩), false⟩ }).tracker
      (reqOf 3)).batch = some ⟨0, [], some (5, ⟨1, 2, 3⟩), false⟩ := by decide

theorem witness_StatusResponsesReturn :
    bench.layout.wf = true ∧ 15 < 2 ^ bench.layout.revW ∧ 255 < 2 ^ bench.layout.fposW ∧
    ([0#2, 1#2, 2#2, 3#2] : List (BitVec 2)).all (fun n =>
      ((awaiting (.status n)).tracker (reqOf 3)).pending == [.status n]) = true ∧
    get 0x0000000034FF1B4C#64 Field.chipid = 3 ∧ get 0x0000000034FF1B4C#64 Field.eventp = 0 ∧
    get 0x0000000034FF1B4C#64 Field.cmd % 2 = 0 := by decide

theorem witness_SynapseResponseReturns :
    bench.layout.wf = true ∧ Instr.wf .reference (.scResp 3 7#3 255 63 16777215) = true ∧
    Instr.wf .reference (.scResp 3 0#3 0 0 1) = true ∧
    ((awaiting (.synram .syn)).tracker (reqOf 3)).pending = [.synram .syn] ∧
    ((awaiting (.synram .ctrl)).tracker (reqOf 3)).pending = [.synram .ctrl] ∧
    Nat.testBit 16777215 bench.layout.scCmerrOff = true ∧ Nat.testBit 1 bench.layout.scCmerrOff = false := by decide

theorem witness_ErrorResponseReturns :
    (15#4).toNat % 2 = 1 ∧ ((awaiting (.status 0#2)).tracker (reqOf 3)).pending = [.status 0#2] ∧
    (∀ a, ReadKind.status 0#2 ≠ .param a) ∧
    ((track3 fun t => { t with pending := [.param 5], batch := some ⟨0, [], some (5, ⟨1, 2, 3⟩), false⟩ }).tracker
      (reqOf 3)).pending = [.param 5] :=
  ⟨by decide, by decide, fun _ h => (by cases h), by decide⟩

theorem witness_BareResponsesReturnRaw :
    bench.layout.wf = true ∧ (awaiting (.misc .loopback)).side = .requester ∧
    ((awaiting (.misc .loopback)).tracker (reqOf 3)).pending = [.misc .loopback] := by decide

theorem witness_BareCommandsRefusedAtDevice : bench.side = .device ∧ (bench.chip 3).present = true := by decide

theorem witness_UnexpectedResponseRefused :
    (bench.tracker (reqOf 3)).pending = [] ∧ get 0x000781402800A24C#64 Field.chipid = 3 ∧
    get 0x000781402800A24C#64 Field.eventp = 0 ∧ ({ bench with side := .requester } : State).side = .requester ∧
    (Instr.prReadResp 3 5 10 20 30).chip = some 3 ∧ (Instr.prReadResp 3 5 10 20 30).answers (.param 5) = true := by decide

/-- Chip id 16, for a request of each kind and for `setDelay` with its largest legal operands. -/
theorem witness_ChipIdsValidated :
    15 < 16 ∧ (Request.writeParam 16 7456 0 0 0).target = some 16 ∧ (Request.setDelay 35 7 16).target = some 16 ∧
    35 < 36 ∧ 7 < 8 := by decide

theorem witness_ParamAddressesValidated : 15 ≤ 15 ∧ bench.layout.prTotal ≤ 7456 := by decide

theorem witness_SelectorAndDelayValidated : 15 ≤ 15 ∧ 3 < 4 ∧ 36 ≤ 36 ∧ 35 < 36 ∧ 8 ≤ 8 ∧ 7 < 8 ∧ 15 < 16 := by decide

/-- Row 259 is row 3 in an 8-bit field; idle, open, open elsewhere, and during a pass. -/
theorem witness_RowOpening :
    ScOp.synW.sub = .syn ∧ ScOp.plutR.sub = .plut ∧ (bench.tracker 3).poison = false ∧
    259 % 2 ^ bench.layout.scRow.width = 3 ∧ (bench.tracker 3).row = .idle ∧ bench.addrMode = false ∧
    (bench.tracker 3).pending = [] ∧ ((track3 fun t => { t with row := .rowOpen 3 }).tracker 3).row = .rowOpen 3 ∧
    ((track3 fun t => { t with row := .rowOpen 4 }).tracker 3).row = .rowOpen 4 ∧ 4 ≠ 3 ∧
    ((track3 fun t => { t with row := .processing 3 }).tracker 3).row = .processing 3 := by decide

theorem witness_RowDirectivesAtIssue :
    ((track3 fun t => { t with poison := true }).tracker 3).poison = true ∧ (bench.tracker 3).poison = false ∧
    ScOp.close.sub ∈ [ScSub.close, .pcor, .pcorc] ∧ (∀ q, (bench.tracker 3).row ≠ .rowOpen q) ∧
    bench.addrMode = false ∧ (bench.tracker 3).pending = [] ∧
    ((track3 fun t => { t with row := .rowOpen 255 }).tracker 3).row = .rowOpen 255 ∧
    ScOp.ctrlR.sub ∈ [ScSub.ctrl, .time, .corRead] :=
  ⟨by decide, by decide, by decide, fun q h => (by cases h), by decide, by decide, by decide, by decide⟩

/-- A request that sends: RequestSendsAtMostOneWord, SentWordsHaveAMeaning. -/
theorem witness_RequestRuns :
    bench.layout.wf = true ∧ (Request.readParam 3 7455).target = some 3 ∧
    ∃ t, runRequest (.readParam 3 7455) bench = .next t ∧ t.toDevice = bench.toDevice ++ [0x0000000003A3E24C#64] :=
  ⟨by decide, rfl, _, rfl, by decide⟩

theorem witness_PackEventsRefusals :
    3 < (List.replicate 4 (⟨0xA3#8, 1, 0, true⟩ : EventRequest)).length ∧
    (∃ a ∈ [(⟨0xA3#8, 1, 0, true⟩ : EventRequest), ⟨0xB1#8, 2, 0, true⟩],
      ∃ b ∈ [(⟨0xA3#8, 1, 0, true⟩ : EventRequest), ⟨0xB1#8, 2, 0, true⟩],
        a.valid = true ∧ b.valid = true ∧ a.absoluteTime.toNat / 16 ≠ b.absoluteTime.toNat / 16) ∧
    (∀ a ∈ [(⟨0xA3#8, 1, 0, true⟩ : EventRequest), ⟨0xA9#8, 2, 0, true⟩],
      ∀ b ∈ [(⟨0xA3#8, 1, 0, true⟩ : EventRequest), ⟨0xA9#8, 2, 0, true⟩],
        a.valid = true → b.valid = true → a.absoluteTime.toNat / 16 = b.absoluteTime.toNat / 16) ∧
    bench.addrMode = false ∧ (bench.tracker 2).pending = [] := by decide

/-- A request that sends a read and one that does not; a batch before its last, its next, a refused and an unverifiable
read; one that waits; the answers to a poll. -/
theorem witness_VerifyBatchSteps :
    let b : Batch := ⟨0, [(7456, ⟨1, 2, 3⟩)], none, false⟩
    ((track3 fun t => { t with batch := some b }).tracker 3).batch = some b ∧ b.awaiting = none ∧
    (⟨0, [], some (5, ⟨1, 2, 3⟩), false⟩ : Batch).awaiting ≠ none ∧ (⟨0, [], none, true⟩ : Batch).failed = true ∧
    ((track3 fun t => { t with batch := some b }).tracker 3).pending = [] ∧
    ((track3 fun t => { t with batch := some b, pending := [.param 0] }).tracker 3).pending ≠ [] ∧
    (⟨0, [], none, false⟩ : Batch).todo = [] ∧ bench.layout.prTotal ≤ 7456 ∧ 7455 < bench.layout.prTotal ∧
    bench.layout.wf = true ∧ bench.addrMode = false ∧
    nextIs (runRequest (.readParam 3 7455) bench) (fun t => t.toDevice.length == 1) = true ∧
    (Request.readParam 3 7455).reads ≠ none ∧ (Request.writePeriod 3 1).reads = none ∧
    nextIs (runRequest (.writePeriod 3 1) bench) (fun _ => true) = true ∧
    nextIs (runRequest (.synapse 3 .ctrlR 0 0 0) bench) (fun _ => true) = true ∧
    ([.ok (.ctrl false false), .ok (.ctrl true false), .error .commandDecodeError] : List Result).all (fun r =>
      (((Tracker.reset.push (.synram .ctrl)).answer r).answerTo 0 == some r)) = true ∧ 15 < 16 := by decide

theorem witness_OverflowLogIsSticky :
    (∃ t, runAgent (.env (.setCmerr 3)) bench = .next t) ∧ bench.layout.wf = true ∧ 63 + 1 ≤ 64 ∧
    ∃ t, runRequest (.writeParam 3 8 1034 20 30) bench = .next t ∧ t.toDevice ≠ bench.toDevice :=
  ⟨⟨_, rfl⟩, by decide, by decide, _, rfl, by decide⟩

/-- A field that ends at bit 63, of full width: CodecRoundTrip, CodecLaws. -/
theorem witness_CodecFields : 0 + 64 ≤ 64 ∧ 63 + 1 ≤ 64 ∧ 0 + 63 ≤ 63 ∧ 64 + 0 ≤ 64 := by decide

theorem witness_FramerRoundTrips :
    15 ≤ 15 ∧ 2 ^ 58 - 1 < 2 ^ 58 ∧ 0xE#64 &&& ~~~(2#64) = 0xC#64 &&& ~~~(2#64) := by decide

/-- Three records with one time MSB, one of them invalid: EventRoundTrip, CompressRoundTrip. -/
theorem witness_EventRoundTrip :
    Layout.reference.wf = true ∧ 14 < 15 ∧
    ([⟨0x10#8, 3, 1, true⟩, ⟨0#8, 0, 0, false⟩, ⟨0x1F#8, 512, 16, true⟩] : List EventRequest).length ≤ 3 ∧
    msbAgree [⟨0x10#8, 3, 1, true⟩, ⟨0#8, 0, 0, false⟩, ⟨0x1F#8, 512, 16, true⟩] = true := by decide

/-- The last address of the last bank, and the first beyond it. -/
theorem witness_BankResolution :
    Layout.reference.wf = true ∧ 7455 < Layout.reference.prTotal ∧ Layout.reference.prTotal ≤ 7456 ∧
    addressOf .reference .outputAmp 15 = some 7455 := by decide

theorem witness_StepKeepsLegal :
    ({ bench with toDevice := [0x000781402800A20C#64] } : State).inv = true ∧
    ∃ t, step { bench with toDevice := [0x000781402800A20C#64] } = .next t :=
  ⟨by decide, _, rfl⟩

theorem witness_ResetControlRegister : Layout.reference.wf = true := by decide

/-- The reset step: StatusAfterReset. -/
theorem witness_ResetStep :
    bench.layout.wf = true ∧ (bench.chip 3).present = true ∧ (bench.chip 3).revision < 2 ^ bench.layout.revW ∧
    ∃ t, runEnv .reset bench = .next t :=
  ⟨by decide, by decide, by decide, _, rfl⟩

/-- ChipsAreIndependent, WordsKeepModeAndCmerr. -/
theorem witness_InstructionRuns :
    (Instr.scPcor 3).chip = some 3 ∧ (∃ t, exec (.scPcor 3) bench = .next t) ∧ (4 : ChipId) ≠ 3 ∧ (4 : ReqId) ≠ reqOf 3 :=
  ⟨rfl, ⟨_, rfl⟩, by decide, by decide⟩

theorem witness_ParamWriteReadLaw :
    (bench.chip 3).present = true ∧ 7455 < bench.layout.prTotal ∧
    noParamWrite 3 7455 [.prWrite 3 7454 1 1 1, .prWrite 4 7455 1 1 1, .scPcor 3] = true ∧
    ∃ t, exec (.prWrite 3 7455 1 2 3) bench = .next t ∧
      ∃ u, runInstrs [.prWrite 3 7454 1 1 1, .prWrite 4 7455 1 1 1, .scPcor 3] t = .next u :=
  ⟨by decide, by decide, by decide, _, rfl, _, rfl⟩

theorem witness_ModeChangeNeedsDrainedLink :
    (bench.toDevice = [] ∧ ∀ k : ChipId, (bench.chip k).present = true → (bench.tracker (reqOf k)).pending = []) ∧
    ({ bench with toDevice := [0#64] } : State).toDevice ≠ [] ∧
    ∃ k : ChipId, ((awaiting (.param 0)).chip k).present = true ∧
      ((awaiting (.param 0)).tracker (reqOf k)).pending ≠ [] :=
  ⟨by decide, by decide, 3, by decide⟩

theorem witness_IdleInEitherOrder :
    bench.layout.wf = true ∧ (bench.chip 3).present = true ∧ (4#8).getLsbD (ControlField.index .pramEn) = true ∧
    get 0#32 (bench.layout.crField .pramEn) = 0 := by decide

/-! The printer: two examples of R121. -/

theorem test_text_param_write :
    (Request.writeParam 3 5 10 20 30).text = some "PR.WRITE c=3, a=5, p1=10, p2=20, p3=30" := by decide

theorem test_text_control_write :
    (Request.buildControlWrite 3 { pramEn := some 1 }).text =
      some ("CTRL.WRITE c=3, " ++ String.singleton (Char.ofNat 123) ++ "pram_en=1" ++
        String.singleton (Char.ofNat 125)) := by decide

end Sys2Proof.Tests
end

section
/-! The empty word at every consumer (30_encoding R111). Each decoder tests the chip id field before any other bit, so
the lemmas speak of any word whose field is 15. -/

namespace Sys2Proof

/-- DEV reads the empty word as such with the mode pin at either level. -/
theorem decodeDevice_of_chipid_eq (L : Layout) (addrMode : Bool) {w : Word} (h : get w Field.chipid = 15) :
    decodeDevice L addrMode w = .ok .empty :=
  dif_neg (by omega)

/-- RSP reads the empty word as such whatever reads are pending. -/
theorem decodeResponse_of_chipid_eq (L : Layout) (pendingOf : ChipId → Option ReadKind) {w : Word}
    (h : get w Field.chipid = 15) : decodeResponse L pendingOf w = .ok .empty :=
  dif_neg (by omega)

end Sys2Proof

namespace Sys2Proof.Machine

theorem unpackEvents_of_chipid_eq (L : Layout) {w : Word} (h : get w Field.chipid = 15) : unpackEvents L w = [] :=
  if_pos h

@[simp] theorem exec_empty (s : State) : exec .empty s = .next s := rfl

theorem deviceWord_of_chipid_eq (s : State) {w : Word} (h : get w Field.chipid = 15) : deviceWord w s = .next s := by
  simp [deviceWord, decodeDevice_of_chipid_eq _ _ h]

theorem responseWord_of_chipid_eq (s : State) {w : Word} (h : get w Field.chipid = 15) :
    responseWord w s = .next s := by
  simp [responseWord, decodeResponse_of_chipid_eq _ _ h]

/-- Over a well-formed layout the scheduled agent steps (00_scope R17). -/
theorem step_scheduled {s : State} {a : Agent} {later : List Agent} (hL : s.layout.wf = true)
    (hs : s.schedule = a :: later) : step s = runAgent a { s with schedule := later } := by
  simp [step, agentStep, hL, hs]

/-- DEV's step hands the oldest word toward the device to the instances. -/
theorem step_dev {s : State} {later : List Agent} {w : Word} {rest : List Word} (hL : s.layout.wf = true)
    (hs : s.schedule = .dev :: later) (hd : s.toDevice = w :: rest) :
    step s = deviceWord w { s with toDevice := rest, side := .device, schedule := later } := by
  simp [step_scheduled hL hs, runAgent, hd]

/-- RSP's step hands the oldest word toward the requester to the response parser. -/
theorem step_rsp {s : State} {later : List Agent} {w : Word} {rest : List Word} (hL : s.layout.wf = true)
    (hs : s.schedule = .rsp :: later) (hr : s.toRequester = w :: rest) :
    step s = responseWord w { s with toRequester := rest, side := .requester, schedule := later } := by
  simp [step_scheduled hL hs, runAgent, hr]

/-- Settles O9: both decoders give the empty instruction whatever the other bits are, and that instruction leaves the
state as the consumer's own step made it, with the word taken. -/
theorem emptyWordsSkipped : Obligations.EmptyWordsSkipped := by
  intro w hw
  refine ⟨fun s rest later hL => ⟨fun hs hd => ?_, fun hs hr => ?_⟩,
    fun L => unpackEvents_of_chipid_eq L hw, exec_empty⟩
  · rw [step_dev hL hs hd, deviceWord_of_chipid_eq _ hw]
  · rw [step_rsp hL hs hr, responseWord_of_chipid_eq _ hw]

end Sys2Proof.Machine
end


section
/-! The codec's two calls on a field inside the word (40_bitfield_codec R130 to R132). -/

namespace Sys2Proof

/-- Inside the word `EXTRACT` answers the slice (R130, R132). -/
theorem codecExtract_of_le (w : Word) {pos width : Nat} (h : pos + width ≤ 64) :
    codecExtract w pos width = .ok (bits w pos width) :=
  if_neg (Nat.not_lt.mpr h)

/-- Inside the word `INSERT` answers the word with the field replaced and the log of the truncation (R131, R132). -/
theorem codecInsert_of_le (w : Word) {pos width : Nat} (value : Nat) (h : pos + width ≤ 64) :
    codecInsert w pos width value = .ok (putBits w pos width value, overflowOf ⟨pos, width⟩ value) :=
  if_neg (Nat.not_lt.mpr h)

/-- Settles O44: inside the word neither call fails, and the slice of the word just written is the value reduced to
the width, which `get_put_same` proves bit by bit. -/
theorem codecRoundTrip : Obligations.CodecRoundTrip := by
  intro w pos width v hin
  have hread : bits (putBits w pos width v) pos width = v % 2 ^ width := get_put_same w ⟨pos, width⟩ v hin
  refine ⟨putBits w pos width v, overflowOf ⟨pos, width⟩ v, codecInsert_of_le w v hin, ?_⟩
  rw [codecExtract_of_le _ hin, hread]

end Sys2Proof
end


section
/-! The chip id of a request that builds a packet (41_packet_framer R142). It is tested at three places, `BUILD`, its
command form and the packet requests' common check, and each answers a chip id beyond 15 with `InvalidChipId`. -/

namespace Sys2Proof.Machine

theorem build_of_gt {chipId : Nat} (isEvent : Bool) (payload : Nat) (h : 15 < chipId) :
    build chipId isEvent payload = .error (.invalidChipId chipId) :=
  if_pos h

theorem buildCommand_of_gt {chipId : Nat} (rwb cmd ci : Nat) (h : 15 < chipId) :
    buildCommand chipId rwb cmd ci = .error (.invalidChipId chipId) :=
  if_pos h

/-- Whatever the request would have done with its chip id, it does not come to it. -/
theorem withChipId_of_gt {chipId : Nat} (s : State) (f : ReqId → Host.Outcome State Fault Refusal)
    (h : 15 < chipId) : withChipId chipId s f = .next (s.raise (some chipId) (.invalidChipId chipId)) :=
  dif_neg (by omega)

/-- `setDelay` comes to its chip id with a delay line and a delay value that name something (45_delay_line R234). -/
theorem requestSetDelay_of_operands {lineAddress value : Nat} (chipId : Nat) (s : State) (hl : lineAddress < 36)
    (hv : value < 8) : requestSetDelay lineAddress value chipId s =
      withChipId chipId s fun r => issue r true (delayFields s.layout chipId lineAddress value) none id s := by
  rw [requestSetDelay, if_neg (Nat.not_le.mpr hl), if_neg (Nat.not_le.mpr hv)]

/-- Settles O34: the request's constructor says which of the three tests it meets, and `setDelay` meets it after the
tests of its other operands. -/
theorem chipIdsValidated : Obligations.ChipIdsValidated := by
  intro r s c htarget hc hoperands
  cases r with
  | extract | insert | classify | classifyCommand | decodeStatus | unpackEvents => cases htarget
  | build chipId isEvent payload =>
    cases htarget
    simp only [runRequest, build_of_gt isEvent payload hc, finishCodec, State.raise]
  | buildCommand chipId rwb cmd ci =>
    cases htarget
    simp only [runRequest, buildCommand_of_gt rwb cmd ci hc, finishCodec, State.raise]
  | buildControlWrite | buildStatusRead | writeParam | readParam | writePeriod | writeLookupEntry | writeParamCount
  | packEvents | synapse | misc =>
    cases htarget
    simp only [runRequest, requestControlWrite, requestStatusRead, requestWriteParam, requestReadParam,
      requestWritePeriod, requestWriteLookup, requestWriteCount, requestPackEvents, requestSynapse, requestMisc,
      withChipId_of_gt s _ hc, State.raise]
  | setDelay lineAddress value chipId =>
    cases htarget
    obtain ⟨hl, hv⟩ := hoperands lineAddress value rfl
    calc requestSetDelay lineAddress value c s
      _ = withChipId c s _ := requestSetDelay_of_operands c s hl hv
      _ = .next (s.report (some c) (.error (.invalidChipId c))) := withChipId_of_gt s _ hc

end Sys2Proof.Machine
end


section
/-! Reading assembled words back (30_encoding R91 to R99). A command word is a header and the fields of its data field;
each of its fields holds its value reduced to the width, so the decoder's tests find what the encoder wrote. -/

namespace Sys2Proof

/-! The header of a command word. -/

/-- The fields of a command packet hold their values, reduced to their widths (R92, R137). -/
theorem get_command_mem {chipId rwb cmd : Nat} {rest : List (Field × Nat)} (h : fieldsOk 11 64 (rest.map (·.1)) = true)
    {f : Field} {v : Nat} (hm : (f, v) ∈ commandFields chipId rwb cmd ++ rest) :
    get (assemble (commandFields chipId rwb cmd ++ rest)) f = v % 2 ^ f.width := by
  obtain ⟨hin, hd⟩ := (fieldsOk_iff _ _ _).1 (fieldsOk_command chipId rwb cmd rest h)
  exact get_assemble_mem _ f v ((pairwiseDisjoint_iff _).2 hd) hm (hin f (List.mem_map_of_mem hm)).2

/-- What a command word's header says: the chip it is for, the packet's kind, the direction, the command code. -/
structure IsCommand (w : Word) (k : ChipId) (rwb cmd : Nat) : Prop where
  chipid : get w Field.chipid = k.val
  eventp : get w Field.eventp = 0
  cmdrwb : get w Field.cmdrwb = rwb
  cmd : get w Field.cmd = cmd

/-- A command word made for chip `k` has that header, and its data field holds what was inserted (R92, R137). -/
theorem read_command {k : ChipId} {rwb cmd : Nat} {rest : List (Field × Nat)} {w : Word}
    (hw : w = assemble (commandFields k.val rwb cmd ++ rest)) (h : fieldsOk 11 64 (rest.map (·.1)) = true)
    (hr : rwb < 2) (hc : cmd < 16) : IsCommand w k rwb cmd ∧ ∀ p ∈ rest, get w p.1 = p.1.reduce p.2 := by
  subst hw
  refine ⟨⟨?_, get_command_mem (v := 0) h (by simp [commandFields]), ?_, ?_⟩,
    fun p hp => get_command_mem h (List.mem_append_right _ hp)⟩
  · exact (get_command_mem h (by simp [commandFields])).trans (Nat.mod_eq_of_lt (by dsimp only; omega))
  · exact (get_command_mem h (by simp [commandFields])).trans (Nat.mod_eq_of_lt hr)
  · exact (get_command_mem h (by simp [commandFields])).trans (Nat.mod_eq_of_lt hc)

/-! What the decoders test before they come to a command's family. -/

/-- In packet mode the device of the word's chip reads a command word by its code (R106). -/
theorem IsCommand.decodeDevice (L : Layout) {w : Word} {k : ChipId} {rwb cmd : Nat} (h : IsCommand w k rwb cmd) :
    decodeDevice L false w = decodeCommand L k w := by
  simp [Sys2Proof.decodeDevice, h.chipid, h.eventp]

theorem decodeDevice_of_event (L : Layout) {w : Word} {k : ChipId} (hk : get w Field.chipid = k.val)
    (he : get w Field.eventp = 1) : decodeDevice L false w = .ok (decodeEvent k w) := by
  simp [decodeDevice, hk, he]

/-- In address mode it reads every word as a delay-line word (R106). -/
theorem decodeDevice_of_addrMode (L : Layout) {w : Word} {k : ChipId} (hk : get w Field.chipid = k.val) :
    decodeDevice L true w = .ok (decodeDelay L k w) := by
  simp [decodeDevice, hk]

theorem decodeResponse_of_event (L : Layout) (pendingOf : ChipId → Option ReadKind) {w : Word} {k : ChipId}
    (hk : get w Field.chipid = k.val) (he : get w Field.eventp = 1) :
    decodeResponse L pendingOf w = .ok (decodeEvent k w) := by
  simp [decodeResponse, hk, he]

/-- RSP parses an unflagged response by the kind of the oldest pending read (R107). -/
theorem decodeResponse_of_kind (L : Layout) {pendingOf : ChipId → Option ReadKind} {w : Word} {k : ChipId}
    {kind : ReadKind} (hk : get w Field.chipid = k.val) (he : get w Field.eventp = 0) (hp : pendingOf k = some kind)
    (hc : get w Field.cmd % 2 = 0) : decodeResponse L pendingOf w = .ok (decodeByKind L k w kind) := by
  simp [decodeResponse, hk, he, hp, hc]

/-- The error flag is looked at before the kind (R150, R282). -/
theorem decodeResponse_of_flag (L : Layout) {pendingOf : ChipId → Option ReadKind} {w : Word} {k : ChipId}
    {kind : ReadKind} (hk : get w Field.chipid = k.val) (he : get w Field.eventp = 0) (hp : pendingOf k = some kind)
    (hc : get w Field.cmd % 2 = 1) : decodeResponse L pendingOf w =
      .ok (.errorResp k (BitVec.ofNat 1 (get w Field.cmdrwb)) (BitVec.ofNat 4 (get w Field.cmd))
        (BitVec.ofNat 53 (get w Field.ci))) := by
  simp [decodeResponse, hk, he, hp, hc]

/-! The command codes of a well-formed layout (R10 (c)): each leads to its own family. -/

namespace Layout

variable {L : Layout}

theorem wf_code_even (h : L.wf = true) {c : Nat} (hc : c ∈ L.commandCodes) : c % 2 = 0 := ((wf_codes h).1 c hc).2

/-- A command code fits its field (R10 (c)). -/
theorem wf_code_lt (h : L.wf = true) {c : Nat} (hc : c ∈ L.commandCodes) : c < 16 := ((wf_codes h).1 c hc).1

theorem cmdParamram_mem (L : Layout) : L.cmdParamram ∈ L.commandCodes := by simp [commandCodes]

theorem cmdControl_mem (L : Layout) : L.cmdControl ∈ L.commandCodes := by simp [commandCodes]

theorem cmdSynram_mem (L : Layout) : L.cmdSynram ∈ L.commandCodes := by simp [commandCodes]

theorem miscCode_mem (L : Layout) (m : MiscCmd) : m.code L ∈ L.commandCodes := by
  cases m <;> simp [MiscCmd.code, commandCodes]

end Layout

section Codes

variable {L : Layout} (hL : L.wf = true) {w : Word} {k : ChipId}
include hL

theorem Layout.wf_codes_nodup : L.commandCodes.Nodup := by
  have h := (Layout.wf_codes hL).2
  simpa only [Layout.commandCodes, Layout.allDistinct, List.all_cons, List.all_nil, Bool.and_eq_true, decide_eq_true_eq,
    List.nodup_cons, List.mem_cons, List.not_mem_nil, not_or, List.nodup_nil, not_false_eq_true, ne_eq] using h

theorem decodeCommand_param (hc : get w Field.cmd = L.cmdParamram) : decodeCommand L k w = decodeParam L k w := by
  have heven := Layout.wf_code_even hL L.cmdParamram_mem
  simp [decodeCommand, hc, heven]

theorem decodeCommand_control (hc : get w Field.cmd = L.cmdControl) :
    decodeCommand L k w = .ok (decodeControl L k w) := by
  have heven := Layout.wf_code_even hL L.cmdControl_mem
  have hne := Layout.wf_codes_nodup hL
  grind [decodeCommand, Layout.commandCodes]

theorem decodeCommand_synapse (hc : get w Field.cmd = L.cmdSynram) : decodeCommand L k w = decodeSynapse L k w := by
  have heven := Layout.wf_code_even hL L.cmdSynram_mem
  have hne := Layout.wf_codes_nodup hL
  grind [decodeCommand, Layout.commandCodes]

theorem decodeCommand_misc (m : MiscCmd) (hc : get w Field.cmd = m.code L) :
    decodeCommand L k w = .ok (decodeMisc m k w) := by
  have heven := Layout.wf_code_even hL (L.miscCode_mem m)
  have hne := Layout.wf_codes_nodup hL
  cases m <;> grind [decodeCommand, Layout.commandCodes, MiscCmd.code]

end Codes

end Sys2Proof
end


section
/-! What each command format of 30_encoding holds (R92 to R99), and the round trips of the two decoders. -/

namespace Sys2Proof

section Formats

variable {L : Layout} (hL : L.wf = true) (k : ChipId) {w : Word}
include hL

theorem read_prEntry {rwb : Nat} (hr : rwb < 2) (a p1 p2 p3 : Nat)
    (hw : w = assemble (prEntryFields L k rwb a p1 p2 p3)) :
    IsCommand w k rwb L.cmdParamram ∧ get w L.prSub = 0 ∧ get w L.prAdr = L.prAdr.reduce a ∧
      get w L.prP1 = L.prP1.reduce p1 ∧ get w L.prP2 = L.prP2.reduce p2 ∧ get w L.prP3 = L.prP3.reduce p3 := by
  refine (read_command hw (Layout.wf_prEntry hL) hr (Layout.wf_code_lt hL L.cmdParamram_mem)).imp_right
    fun h => ?_
  simpa [Field.reduce] using h

theorem read_prRead (a : Nat) (hw : w = assemble (prReadFields L k a)) :
    IsCommand w k 1 L.cmdParamram ∧ get w L.prSub = 0 ∧ get w L.prAdr = L.prAdr.reduce a := by
  have hf := fieldsOk_sublist (gs := [L.prSub, L.prAdr]) (Layout.wf_prEntry hL) (by simp)
  refine (read_command hw hf (by decide) (Layout.wf_code_lt hL L.cmdParamram_mem)).imp_right
    fun h => ?_
  simpa [Field.reduce] using h

theorem read_prPeriod (v : Nat) (hw : w = assemble (prPeriodFields L k v)) :
    IsCommand w k 0 L.cmdParamram ∧ get w L.prSub = 1 ∧ get w L.prPeriod = L.prPeriod.reduce v := by
  refine (read_command hw (Layout.wf_prPeriod hL) (by decide) (Layout.wf_code_lt hL L.cmdParamram_mem)).imp_right
    fun h => ?_
  simpa [Field.reduce, (Layout.wf_prNumbers hL).1] using h

theorem read_prLut (idx time boost rep step : Nat) (hw : w = assemble (prLutFields L k idx time boost rep step)) :
    IsCommand w k 0 L.cmdParamram ∧ get w L.prSub = 2 ∧ get w L.lutIdx = L.lutIdx.reduce idx ∧
      get w L.lutTime = L.lutTime.reduce time ∧ get w L.lutBoost = L.lutBoost.reduce boost ∧
      get w L.lutRepeat = L.lutRepeat.reduce rep ∧ get w L.lutStep = L.lutStep.reduce step := by
  refine (read_command hw (Layout.wf_prLut hL) (by decide) (Layout.wf_code_lt hL L.cmdParamram_mem)).imp_right
    fun h => ?_
  simpa [Field.reduce, (Layout.wf_prNumbers hL).1] using h

theorem read_prCount (v : Nat) (hw : w = assemble (prCountFields L k v)) :
    IsCommand w k 0 L.cmdParamram ∧ get w L.prSub = 3 ∧ get w L.prCount = L.prCount.reduce v := by
  refine (read_command hw (Layout.wf_prCount hL) (by decide) (Layout.wf_code_lt hL L.cmdParamram_mem)).imp_right
    fun h => ?_
  simpa [Field.reduce, (Layout.wf_prNumbers hL).1] using h

theorem read_ctrlWrite (val : BitVec 32) (fmask : BitVec 8)
    (hw : w = assemble (ctrlWriteFields L k val.toNat fmask.toNat)) :
    IsCommand w k 0 L.cmdControl ∧ get w L.crVal = val.toNat ∧ get w L.crFmask = fmask.toNat := by
  refine (read_command hw (Layout.wf_ctrlWrite hL) (by decide) (Layout.wf_code_lt hL L.cmdControl_mem)).imp_right
    fun h => ?_
  simpa [Field.reduce, Layout.wf_fmask hL, Nat.mod_eq_of_lt val.isLt, Nat.mod_eq_of_lt fmask.isLt]
    using (List.forall_mem_cons.1 h).2

theorem read_statusRead {sel : Nat} (hs : sel < 4) (hw : w = assemble (statusReadFields L k sel)) :
    IsCommand w k 1 L.cmdControl ∧ get w L.crSel = sel := by
  have hf := fieldsOk_sublist (gs := [L.crSel]) (Layout.wf_status0 hL) (by simp)
  refine (read_command hw hf (by decide) (Layout.wf_code_lt hL L.cmdControl_mem)).imp_right
    fun h => ?_
  simpa [Field.reduce, Nat.mod_eq_of_lt hs] using h

theorem read_statusControl (ctrl : BitVec 32) (rev : Nat) (hw : w = assemble (statusControlFields L k ctrl.toNat rev)) :
    IsCommand w k 1 L.cmdControl ∧ get w L.stCtrl = ctrl.toNat ∧ get w L.stRev = L.stRev.reduce rev := by
  refine (read_command hw (Layout.wf_status0 hL) (by decide) (Layout.wf_code_lt hL L.cmdControl_mem)).imp_right
    fun h => ?_
  simpa [Field.reduce, Nat.mod_eq_of_lt ctrl.isLt] using (List.forall_mem_cons.1 h).2

theorem read_statusFifo (sel : Nat) (fstat : BitVec 4) (fpos : Nat)
    (hw : w = assemble (statusFifoFields L k sel fstat.toNat fpos)) :
    IsCommand w k 1 L.cmdControl ∧ get w L.stFstat = fstat.toNat ∧ get w L.stFpos = L.stFpos.reduce fpos := by
  have hf := fieldsOk_sublist (gs := [L.crSel, L.stFstat, L.stFpos]) (Layout.wf_status3 hL) (by simp)
  refine (read_command hw hf (by decide) (Layout.wf_code_lt hL L.cmdControl_mem)).imp_right
    fun h => ?_
  simpa [Field.reduce, Nat.mod_eq_of_lt fstat.isLt] using (List.forall_mem_cons.1 h).2

theorem read_statusClkhi (fstat : BitVec 4) (fpos : Nat) (hinib : BitVec 4) (pll : BitVec 1)
    (hw : w = assemble (statusClkhiFields L k fstat.toNat fpos hinib.toNat pll.toNat)) :
    IsCommand w k 1 L.cmdControl ∧ get w L.stFstat = fstat.toNat ∧ get w L.stFpos = L.stFpos.reduce fpos ∧
      get w L.stHinib = hinib.toNat ∧ get w L.stPll = pll.toNat := by
  refine (read_command hw (Layout.wf_status3 hL) (by decide) (Layout.wf_code_lt hL L.cmdControl_mem)).imp_right
    fun h => ?_
  simpa [Field.reduce, Nat.mod_eq_of_lt fstat.isLt, Nat.mod_eq_of_lt hinib.isLt, Nat.mod_eq_of_lt pll.isLt]
    using (List.forall_mem_cons.1 h).2

theorem read_sc {rwb sub : Nat} (hr : rwb < 2) (hs : sub < 8) (row col data : Nat)
    (hw : w = assemble (scFields L k rwb sub row col data)) :
    IsCommand w k rwb L.cmdSynram ∧ get w L.scSub = sub ∧ get w L.scRow = L.scRow.reduce row ∧
      get w L.scCol = L.scCol.reduce col ∧ get w L.scData = L.scData.reduce data := by
  refine (read_command hw (Layout.wf_sc hL) hr (Layout.wf_code_lt hL L.cmdSynram_mem)).imp_right
    fun h => ?_
  simpa [Field.reduce, (Layout.wf_scNumbers hL).1, Nat.mod_eq_of_lt hs] using h

omit hL in
theorem read_rawCommand {cmd : Nat} (hc : cmd < 16) (rwb : BitVec 1) (ci : BitVec 53)
    (hw : w = assemble (rawCommandFields k rwb.toNat cmd ci.toNat)) :
    IsCommand w k rwb.toNat cmd ∧ get w Field.ci = ci.toNat := by
  refine (read_command hw rfl rwb.isLt hc).imp_right
    fun h => ?_
  simpa [Field.reduce, Nat.mod_eq_of_lt ci.isLt] using h

end Formats

end Sys2Proof
end


section
/-! DECODE AND ENCODE AGREE at both faces. The device comes to a command's family by its code, RSP to a response's row
by the kind of the pending read; either then finds the operands in the fields. -/

namespace Sys2Proof

theorem Field.reduce_of_fits {f : Field} {n : Nat} (h : f.fits n = true) : f.reduce n = n :=
  Nat.mod_eq_of_lt (of_decide_eq_true h)

theorem Field.reduce_fits (f : Field) (n : Nat) : f.fits (f.reduce n) = true :=
  decide_eq_true (Nat.mod_lt _ (Nat.two_pow_pos _))

theorem Field.fits_get {n : Nat} (w : BitVec n) (f : Field) : f.fits (get w f) = true := decide_eq_true (get_lt w f)

/-! The families at the device. -/

section Families

variable {L : Layout} (hL : L.wf = true) {k : ChipId} {w : Word} {rwb : Nat}
include hL

theorem IsCommand.decodeDevice_param (h : IsCommand w k rwb L.cmdParamram) :
    Sys2Proof.decodeDevice L false w = decodeParam L k w :=
  (h.decodeDevice L).trans (decodeCommand_param hL h.cmd)

theorem IsCommand.decodeDevice_control (h : IsCommand w k rwb L.cmdControl) :
    Sys2Proof.decodeDevice L false w = .ok (decodeControl L k w) :=
  (h.decodeDevice L).trans (decodeCommand_control hL h.cmd)

theorem IsCommand.decodeDevice_synapse (h : IsCommand w k rwb L.cmdSynram) :
    Sys2Proof.decodeDevice L false w = decodeSynapse L k w :=
  (h.decodeDevice L).trans (decodeCommand_synapse hL h.cmd)

theorem IsCommand.decodeDevice_misc {m : MiscCmd} (h : IsCommand w k rwb (m.code L)) :
    Sys2Proof.decodeDevice L false w = .ok (decodeMisc m k w) :=
  (h.decodeDevice L).trans (decodeCommand_misc hL m h.cmd)

end Families

/-! Event and delay-line words. -/

/-- The fields of an event word hold its operands (R93). -/
theorem read_event (L : Layout) (k : ChipId) (m : BitVec 4) (s0 s1 s2 : Slot) {w : Word}
    (hw : w = encode L (.event k m s0 s1 s2)) :
    get w Field.chipid = k.val ∧ get w Field.eventp = 1 ∧ decodeEvent k w = .event k m s0 s1 s2 := by
  have h : ∀ p ∈ (Instr.event k m s0 s1 s2).fields L, get w p.1 = p.2 % 2 ^ p.1.width := by
    subst hw
    exact fun p hp => get_encode_mem L _ p.1 p.2 (Laws.FieldsFit.event k m s0 s1 s2 .reference (by decide)) hp
  have hk : k.val % 2 ^ 4 = k.val := Nat.mod_eq_of_lt (by omega)
  simp only [Instr.fields, Slot.fields, slotFields, List.forall_mem_append, List.forall_mem_cons,
    Nat.mod_eq_of_lt (BitVec.isLt _), hk] at h
  simp [decodeEvent, slotOf, h]

/-- The fields of a delay-line word hold its operands, reduced to their widths (R98). -/
theorem read_delay {L : Layout} (hL : L.wf = true) (c a v : Nat) {w : Word} (hw : w = assemble (delayFields L c a v)) :
    get w Field.chipid = c % 2 ^ 4 ∧ get w L.dlAdr = L.dlAdr.reduce a ∧ get w L.dlVal = v % 2 ^ 3 := by
  obtain ⟨hin, hd⟩ := (fieldsOk_iff _ _ _).1 (Layout.wf_delay hL)
  have h : ∀ p ∈ delayFields L c a v, get w p.1 = p.2 % 2 ^ p.1.width := by
    subst hw
    exact fun p hp => get_assemble_mem _ p.1 p.2 ((pairwiseDisjoint_iff _).2 hd) hp (hin _ (List.mem_map_of_mem hp)).2
  simpa [delayFields, Field.reduce] using h

/-- The instruction that a bare command's word is, with its raw operands (R99). -/
def MiscCmd.instr (k : ChipId) (rwb : BitVec 1) (ci : BitVec 53) : MiscCmd → Instr
  | .sync => .sync k rwb ci
  | .loopback => .loopback k rwb ci
  | .areadout => .areadout k rwb ci
  | .evloopback => .evloopback k rwb ci
  | .dummycmd => .dummycmd k rwb ci

/-! Words of one format made for chip `k`, in the forms that several instructions share. -/

section Shared

variable {L : Layout} (hL : L.wf = true) (k : ChipId)
include hL

theorem decodeDevice_statusRead {sel : Nat} (hs : sel < 4) :
    decodeDevice L false (assemble (statusReadFields L k sel)) = .ok
      (match sel with | 0 => .statusRead0 k | 1 => .statusRead1 k | 2 => .statusRead2 k | _ => .statusRead3 k) := by
  obtain ⟨hc, hsel⟩ := read_statusRead hL k hs rfl
  rw [hc.decodeDevice_control hL, decodeControl, hc.cmdrwb, hsel]
  match sel, hs with
  | 0, _ | 1, _ | 2, _ | 3, _ => rfl

/-- A synapse-control word decodes to what its sub-command and direction say of its operands (R97, R249). -/
theorem decodeDevice_sc {rwb sub row col data : Nat} {i : Instr} (hr : rwb < 2) (hs : sub < 8)
    (hrow : L.scRow.fits row = true) (hcol : L.scCol.fits col = true) (hdata : L.scData.fits data = true)
    (h : ∀ w, get w L.scSub = sub → get w Field.cmdrwb = rwb → get w L.scRow = row → get w L.scCol = col →
      get w L.scData = data → decodeSynapse L k w = .ok i) :
    decodeDevice L false (assemble (scFields L k rwb sub row col data)) = .ok i := by
  obtain ⟨hc, hsub, hr, hcl, hd⟩ := read_sc hL k hr hs row col data rfl
  rw [hc.decodeDevice_synapse hL]
  exact h _ hsub hc.cmdrwb (hr.trans (Field.reduce_of_fits hrow)) (hcl.trans (Field.reduce_of_fits hcol))
    (hd.trans (Field.reduce_of_fits hdata))

/-- A bare command's word holds its raw operands, whichever face reads it (R99, R281). -/
theorem read_misc (m : MiscCmd) (rwb : BitVec 1) (ci : BitVec 53) {w : Word}
    (hw : w = assemble (rawCommandFields k rwb.toNat (m.code L) ci.toNat)) :
    IsCommand w k rwb.toNat (m.code L) ∧ decodeMisc m k w = m.instr k rwb ci := by
  obtain ⟨hc, hci⟩ := read_rawCommand k (Layout.wf_code_lt hL (L.miscCode_mem m)) rwb ci hw
  refine ⟨hc, ?_⟩
  cases m <;> simp [decodeMisc, MiscCmd.instr, hc.cmdrwb, hci]

theorem decodeDevice_rawCommand (m : MiscCmd) (rwb : BitVec 1) (ci : BitVec 53) :
    decodeDevice L false (assemble (rawCommandFields k rwb.toNat (m.code L) ci.toNat)) = .ok (m.instr k rwb ci) := by
  obtain ⟨hc, hm⟩ := read_misc hL k m rwb ci rfl
  rw [hc.decodeDevice_misc hL, hm]

end Shared

theorem Field.fits_zero (f : Field) : f.fits 0 = true := decide_eq_true (Nat.two_pow_pos _)

/-- Settles O4, by the word's format: its header leads to the family, its operands are what the fields hold, and a
value that fits its field is held as it is. -/
theorem packetRequestsRoundTrip : Obligations.PacketRequestsRoundTrip := by
  intro L i hL hi hreq
  cases i with
  | dlSet | errorResp | prReadResp | statusResp0 | statusResp1 | statusResp2 | statusResp3 | scResp =>
    simp [Instr.isPacketRequest] at hreq
  | empty =>
    exact decodeDevice_of_chipid_eq L false (get_encode_mem L .empty Field.chipid 15 rfl (by simp [Instr.fields]))
  | event k m s0 s1 s2 =>
    obtain ⟨hk, he, hd⟩ := read_event L k m s0 s1 s2 rfl
    rw [decodeDevice_of_event L hk he, hd]
  | prWrite k a p1 p2 p3 =>
    simp only [Instr.wf, Bool.and_eq_true] at hi
    obtain ⟨hc, hs, ha, h1, h2, h3⟩ := read_prEntry hL k (rwb := 0) (by decide) a p1 p2 p3 rfl
    rw [encode, Instr.fields, hc.decodeDevice_param hL]
    simp [decodeParam, hs, hc.cmdrwb, ha, h1, h2, h3, hi, Field.reduce_of_fits]
  | prRead k a =>
    obtain ⟨hc, hs, ha⟩ := read_prRead hL k a rfl
    rw [encode, Instr.fields, hc.decodeDevice_param hL]
    simp [decodeParam, hs, hc.cmdrwb, ha, Field.reduce_of_fits hi]
  | prPeriod k v =>
    obtain ⟨hc, hs, hv⟩ := read_prPeriod hL k v rfl
    rw [encode, Instr.fields, hc.decodeDevice_param hL]
    simp [decodeParam, hs, hc.cmdrwb, hv, Field.reduce_of_fits hi]
  | prLut k idx time boost rep step =>
    simp only [Instr.wf, Bool.and_eq_true] at hi
    obtain ⟨hc, hs, h0, h1, h2, h3, h4⟩ := read_prLut hL k idx time boost rep step rfl
    rw [encode, Instr.fields, hc.decodeDevice_param hL]
    simp [decodeParam, hs, hc.cmdrwb, h0, h1, h2, h3, h4, hi, Field.reduce_of_fits]
  | prCount k v =>
    obtain ⟨hc, hs, hv⟩ := read_prCount hL k v rfl
    rw [encode, Instr.fields, hc.decodeDevice_param hL]
    simp [decodeParam, hs, hc.cmdrwb, hv, Field.reduce_of_fits hi]
  | ctrlWrite k val fmask =>
    obtain ⟨hc, hv, hm⟩ := read_ctrlWrite hL k val fmask rfl
    rw [encode, Instr.fields, hc.decodeDevice_control hL]
    simp [decodeControl, hc.cmdrwb, hv, hm]
  | statusRead0 k | statusRead1 k | statusRead2 k | statusRead3 k => exact decodeDevice_statusRead hL k (by decide)
  | scPlutW k row col data | scSynW k row col data =>
    simp only [Instr.wf, Bool.and_eq_true] at hi
    exact decodeDevice_sc hL k (by decide) (by decide) hi.1.1 hi.1.2 hi.2 fun w hs hr h1 h2 h3 => by
      simp [decodeSynapse, hs, hr, h1, h2, h3]
  | scPlutR k row col | scSynR k row col =>
    simp only [Instr.wf, Bool.and_eq_true] at hi
    exact decodeDevice_sc hL k (by decide) (by decide) hi.1 hi.2 (Field.fits_zero _) fun w hs hr h1 h2 _ => by
      simp [decodeSynapse, hs, hr, h1, h2]
  | scTimeW k data =>
    exact decodeDevice_sc hL k (by decide) (by decide) (Field.fits_zero _) (Field.fits_zero _) hi
      fun w hs hr _ _ h3 => by simp [decodeSynapse, hs, hr, h3]
  | scCorRead k col =>
    exact decodeDevice_sc hL k (by decide) (by decide) (Field.fits_zero _) hi (Field.fits_zero _)
      fun w hs hr _ h2 _ => by simp [decodeSynapse, hs, hr, h2]
  | scCtrlR k | scTimeR k | scClose k | scPcor k | scPcorc k =>
    exact decodeDevice_sc hL k (by decide) (by decide) (Field.fits_zero _) (Field.fits_zero _) (Field.fits_zero _)
      fun w hs hr _ _ _ => by simp [decodeSynapse, hs, hr]
  | sync k rwb ci => exact decodeDevice_rawCommand hL k .sync rwb ci
  | loopback k rwb ci => exact decodeDevice_rawCommand hL k .loopback rwb ci
  | areadout k rwb ci => exact decodeDevice_rawCommand hL k .areadout rwb ci
  | evloopback k rwb ci => exact decodeDevice_rawCommand hL k .evloopback rwb ci
  | dummycmd k rwb ci => exact decodeDevice_rawCommand hL k .dummycmd rwb ci

/-- A response of chip `k` to the oldest pending read, which is of kind `kind`: RSP parses it by that kind, the flag
clear (R107). -/
theorem IsCommand.decodeResponse {L : Layout} (hL : L.wf = true) {pendingOf : ChipId → Option ReadKind} {w : Word}
    {k : ChipId} {rwb cmd : Nat} {kind : ReadKind} (h : IsCommand w k rwb cmd) (hcmd : cmd ∈ L.commandCodes)
    (hp : pendingOf k = some kind) : Sys2Proof.decodeResponse L pendingOf w = .ok (decodeByKind L k w kind) :=
  decodeResponse_of_kind L h.chipid h.eventp hp (by rw [h.cmd]; exact Layout.wf_code_even hL hcmd)

theorem decodeResponse_rawCommand {L : Layout} (hL : L.wf = true) {pendingOf : ChipId → Option ReadKind} {k : ChipId}
    (m : MiscCmd) (rwb : BitVec 1) (ci : BitVec 53) (hp : pendingOf k = some (.misc m)) :
    decodeResponse L pendingOf (assemble (rawCommandFields k rwb.toNat (m.code L) ci.toNat)) =
      .ok (m.instr k rwb ci) := by
  obtain ⟨hc, hm⟩ := read_misc hL k m rwb ci rfl
  rw [hc.decodeResponse hL (L.miscCode_mem m) hp, decodeByKind, hm]

/-- Settles O5, by the response's row: the pending kind names the row's parser, the error flag comes before it, an
event word before both. -/
theorem responsesRoundTrip : Obligations.ResponsesRoundTrip := by
  intro L pendingOf hL
  refine ⟨fun i k kind hi hk hp ha => ?_, fun k m s0 s1 s2 => ?_⟩
  · cases i with
    | errorResp _ rwb cmd ci =>
      cases hk
      obtain ⟨hc, hci⟩ := read_rawCommand k cmd.isLt rwb ci rfl
      have hodd : cmd.toNat % 2 = 1 := of_decide_eq_true hi
      rw [encode, Instr.fields, decodeResponse_of_flag L hc.chipid hc.eventp hp (by rw [hc.cmd, hodd])]
      simp [hc.cmd, hc.cmdrwb, hci]
    | prReadResp _ a p1 p2 p3 =>
      cases hk
      simp only [Instr.wf, Bool.and_eq_true] at hi
      obtain ⟨hc, -, hadr, h1, h2, h3⟩ := read_prEntry hL k (rwb := 1) (by decide) a p1 p2 p3 rfl
      rw [encode, Instr.fields, hc.decodeResponse hL L.cmdParamram_mem hp]
      cases kind <;> simp [Instr.answers] at ha
      simp [decodeByKind, hadr, h1, h2, h3, hi, Field.reduce_of_fits]
    | statusResp0 _ ctrl rev =>
      cases hk
      obtain ⟨hc, hv, hr⟩ := read_statusControl hL k ctrl rev rfl
      rw [encode, Instr.fields, hc.decodeResponse hL L.cmdControl_mem hp, eq_of_beq ha]
      simp [decodeByKind, hv, hr, Field.reduce_of_fits hi]
    | statusResp1 _ fstat fpos | statusResp2 _ fstat fpos =>
      cases hk
      obtain ⟨hc, hs, hf⟩ := read_statusFifo hL k _ fstat fpos rfl
      rw [encode, Instr.fields, hc.decodeResponse hL L.cmdControl_mem hp, eq_of_beq ha]
      simp [decodeByKind, hs, hf, Field.reduce_of_fits hi]
    | statusResp3 _ fstat fpos hinib pll =>
      cases hk
      obtain ⟨hc, hs, hf, hh, hpl⟩ := read_statusClkhi hL k fstat fpos hinib pll rfl
      rw [encode, Instr.fields, hc.decodeResponse hL L.cmdControl_mem hp, eq_of_beq ha]
      simp [decodeByKind, hs, hf, hh, hpl, Field.reduce_of_fits hi]
    | scResp _ sub row col data =>
      cases hk
      simp only [Instr.wf, Bool.and_eq_true] at hi
      obtain ⟨hc, hs, hr, hcol, hd⟩ := read_sc hL k (rwb := 1) (by decide) sub.isLt row col data rfl
      rw [encode, Instr.fields, hc.decodeResponse hL L.cmdSynram_mem hp]
      cases kind <;> simp [Instr.answers] at ha
      simp [decodeByKind, hs, hr, hcol, hd, hi, Field.reduce_of_fits]
    | sync _ rwb ci => cases hk; exact decodeResponse_rawCommand hL .sync rwb ci (eq_of_beq ha ▸ hp)
    | loopback _ rwb ci => cases hk; exact decodeResponse_rawCommand hL .loopback rwb ci (eq_of_beq ha ▸ hp)
    | areadout _ rwb ci => cases hk; exact decodeResponse_rawCommand hL .areadout rwb ci (eq_of_beq ha ▸ hp)
    | evloopback _ rwb ci => cases hk; exact decodeResponse_rawCommand hL .evloopback rwb ci (eq_of_beq ha ▸ hp)
    | dummycmd _ rwb ci => cases hk; exact decodeResponse_rawCommand hL .dummycmd rwb ci (eq_of_beq ha ▸ hp)
    | _ => exact absurd ha Bool.false_ne_true
  · obtain ⟨hk, he, hd⟩ := read_event L k m s0 s1 s2 rfl
    rw [decodeResponse_of_event L pendingOf hk he, hd]

/-- Settles O6: the word's three fields lie apart and each is wide enough for its operand, so the word gives all three
back. -/
theorem delayWordsRoundTrip : Obligations.DelayWordsRoundTrip := by
  intro L hL
  have hlines := Layout.wf_lines hL
  refine ⟨fun k a v ha => ?_, fun c a v c' a' v' hc ha hv hc' ha' hv' heq => ?_⟩
  · obtain ⟨hk, hadr, hval⟩ := read_delay hL k.val a v.toNat rfl
    rw [encode, Instr.fields, decodeDevice_of_addrMode L (hk.trans (Nat.mod_eq_of_lt (by omega))), decodeDelay, hadr,
      hval, Nat.mod_eq_of_lt v.isLt, Field.reduce, Nat.mod_eq_of_lt (Nat.lt_of_lt_of_le ha hlines)]
    simp
  · obtain ⟨hk, hadr, hval⟩ := read_delay hL c a v rfl
    obtain ⟨hk', hadr', hval'⟩ := read_delay hL c' a' v' heq
    rw [hk', Nat.mod_eq_of_lt (show c' < 2 ^ 4 from hc'), Nat.mod_eq_of_lt (show c < 2 ^ 4 from hc)] at hk
    rw [hadr', Field.reduce, Field.reduce, Nat.mod_eq_of_lt (Nat.lt_of_lt_of_le ha' hlines),
      Nat.mod_eq_of_lt (Nat.lt_of_lt_of_le ha hlines)] at hadr
    rw [hval', Nat.mod_eq_of_lt (show v' < 2 ^ 3 from hv'), Nat.mod_eq_of_lt (show v < 2 ^ 3 from hv)] at hval
    exact ⟨hk.symm, hadr.symm, hval.symm⟩

end Sys2Proof
end


section
/-! What the decoders read from any word at all: operands that fit their fields, and no meaning for the reserved
encodings (30_encoding R100, R106, R107, R114, R115). -/

namespace Sys2Proof

/-! Each family's decoder gives operands that fit, since a field's slice is below two to its width. -/

theorem wf_decodeEvent (L : Layout) (k : ChipId) (w : Word) : (decodeEvent k w).wf L = true := rfl

theorem wf_decodeMisc (L : Layout) (m : MiscCmd) (k : ChipId) (w : Word) : (decodeMisc m k w).wf L = true := by
  cases m <;> rfl

theorem wf_decodeControl (L : Layout) (k : ChipId) (w : Word) : (decodeControl L k w).wf L = true := by
  unfold decodeControl
  split <;> rfl

theorem wf_decodeParam {L : Layout} {k : ChipId} {w : Word} {i : Instr} (h : decodeParam L k w = .ok i) :
    i.wf L = true := by
  unfold decodeParam at h
  split at h <;> cases h <;> simp [Instr.wf, Field.fits_get]

theorem wf_decodeSynapse {L : Layout} {k : ChipId} {w : Word} {i : Instr} (h : decodeSynapse L k w = .ok i) :
    i.wf L = true := by
  unfold decodeSynapse at h
  split at h <;> cases h <;> simp [Instr.wf, Field.fits_get]

theorem wf_decodeCommand {L : Layout} {k : ChipId} {w : Word} {i : Instr} (h : decodeCommand L k w = .ok i) :
    i.wf L = true := by
  simp only [decodeCommand] at h
  split_ifs at h
  · exact wf_decodeParam h
  · exact Except.ok.inj h ▸ wf_decodeControl L k w
  · exact wf_decodeSynapse h
  all_goals exact Except.ok.inj h ▸ wf_decodeMisc L _ k w

theorem wf_decodeByKind (L : Layout) (k : ChipId) (w : Word) (kind : ReadKind) :
    (decodeByKind L k w kind).wf L = true := by
  unfold decodeByKind
  split
  case h_7 => exact wf_decodeMisc L _ k w
  all_goals simp [Instr.wf, Field.fits_get]

/-- Settles O7: each branch of the two decoders ends in a family's decoder, and RSP reads an error response only where
the flag is set. -/
theorem decodedIsWellFormed : Obligations.DecodedIsWellFormed := by
  refine fun L w i => ⟨fun m h => ?_, fun p h => ?_⟩
  · simp only [decodeDevice] at h
    split_ifs at h
    · exact Except.ok.inj h ▸ decide_eq_true (get_lt w L.dlAdr)
    · exact Except.ok.inj h ▸ wf_decodeEvent L _ w
    · exact wf_decodeCommand h
    · exact Except.ok.inj h ▸ rfl
  · simp only [decodeResponse] at h
    split_ifs at h with hchip hevent hflag
    · exact Except.ok.inj h ▸ wf_decodeEvent L _ w
    · have hcmd : get w Field.cmd < 2 ^ 4 := get_lt w Field.cmd
      split at h <;> cases h
      simpa [Instr.wf, Nat.mod_eq_of_lt hcmd] using hflag
    · split at h <;> cases h
      exact wf_decodeByKind L _ w _
    · exact Except.ok.inj h ▸ rfl

/-! The reserved encodings (R114, R115). -/

theorem decodeCommand_odd (L : Layout) (k : ChipId) {w : Word} (h : get w Field.cmd % 2 = 1) :
    decodeCommand L k w = .error (.errorFlagOnRequest (get w Field.cmd)) := by
  simp [decodeCommand, h]

/-- Of the parameter-RAM family only sub-command 0 is read (R96, R115). -/
theorem decodeParam_reserved (L : Layout) (k : ChipId) {w : Word} (hr : get w Field.cmdrwb = 1)
    (hs : get w L.prSub ≠ 0) :
    decodeParam L k w = .error (.reservedCombination L.cmdParamram 1 (get w L.prSub)) := by
  unfold decodeParam
  split <;> simp_all

/-- The synapse-control sub-commands that exist in one direction only have no row in the other (R97, R115). -/
theorem decodeSynapse_reserved (L : Layout) (k : ChipId) {w : Word}
    (h : (get w Field.cmdrwb = 0 ∧ (get w L.scSub = 0 ∨ get w L.scSub = 5)) ∨
      (get w Field.cmdrwb = 1 ∧ (get w L.scSub = 4 ∨ get w L.scSub = 6 ∨ get w L.scSub = 7))) :
    decodeSynapse L k w = .error (.reservedCombination L.cmdSynram (get w Field.cmdrwb) (get w L.scSub)) := by
  unfold decodeSynapse
  split <;> simp_all

/-- Settles O8: each of the encodings is an error of the decoder that a device of the word's chip refuses. -/
theorem reservedEncodingsRefused : Obligations.ReservedEncodingsRefused := by
  intro s w k hL hmode hk hpresent hevent hreserved
  have hcommand : decodeDevice s.layout s.addrMode w = decodeCommand s.layout k w := by
    rw [hmode]
    exact IsCommand.decodeDevice s.layout ⟨hk, hevent, rfl, rfl⟩
  have haddressed : s.addressed w = true := by simp [Machine.State.addressed, hk, hpresent]
  have hrefused {e : DecodeError} (he : decodeCommand s.layout k w = .error e)
      (hr : Machine.refusalOf e = .undefinedEncoding) : Machine.deviceWord w s = .refused .undefinedEncoding := by
    simp [Machine.deviceWord, hcommand, he, haddressed, hr]
  rcases hreserved with hodd | ⟨hc, hr, hs⟩ | ⟨hc, hr, hs⟩ | ⟨hc, hr, hs⟩
  · exact hrefused (decodeCommand_odd s.layout k hodd) rfl
  · exact hrefused ((decodeCommand_param hL hc).trans (decodeParam_reserved s.layout k hr hs)) rfl
  · exact hrefused ((decodeCommand_synapse hL hc).trans (decodeSynapse_reserved s.layout k (.inl ⟨hr, hs⟩))) rfl
  · exact hrefused ((decodeCommand_synapse hL hc).trans (decodeSynapse_reserved s.layout k (.inr ⟨hr, hs⟩))) rfl

/-- Settles O3: fourteen words of the spec, each decoded by evaluation in the reference layout. -/
theorem writtenWordsDecode : Obligations.WrittenWordsDecode := by
  unfold Obligations.WrittenWordsDecode
  decide

end Sys2Proof
end


section
/-! The event codec (44_event_codec): what the slots of a packed word hold, the events they deliver, and the groups of
`EV.COMPRESS`. -/

namespace Sys2Proof.Machine

/-! The slots of a packed word. An invalid record inserts its validity bit alone, and the rest of its slot stays 0. -/

/-- The fields of slot `k` (R93, R211). -/
def slotLayout (k : Nat) : List Field := [Field.evValid k, Field.evTbin k, Field.evTlsb k, Field.evNadr k]

/-- The fields of an event word before its slots (R93). -/
def eventHeader : List Field := [Field.eventp, Field.chipid, Field.evTmsb]

theorem recordFields_sublist (L : Layout) (k : Nat) (o : Option EventRequest) :
    ((recordFields L k o).map (·.1)).Sublist (slotLayout k) := by
  unfold recordFields
  split
  · split <;> simp [slotFields, slotLayout]
  · simp [slotLayout]

theorem eventFields_sublist (L : Layout) (c : Nat) (es : List EventRequest) :
    ((eventFields L c es).map (·.1)).Sublist (eventHeader ++ slotLayout 0 ++ slotLayout 1 ++ slotLayout 2) := by
  simp only [eventFields, List.map_append]
  exact ((List.Sublist.refl _).append (recordFields_sublist L 0 _)).append (recordFields_sublist L 1 _)
    |>.append (recordFields_sublist L 2 _)

/-- A field of a packed word holds what was inserted, reduced to its width. -/
theorem get_eventFields_mem (L : Layout) (c : Nat) (es : List EventRequest) {f : Field} {v : Nat}
    (h : (f, v) ∈ eventFields L c es) : get (assemble (eventFields L c es)) f = v % 2 ^ f.width := by
  have hf : fieldsOk 0 64 (eventHeader ++ slotLayout 0 ++ slotLayout 1 ++ slotLayout 2) = true := by decide
  obtain ⟨hin, hd⟩ := (fieldsOk_iff _ _ _).1 (fieldsOk_sublist hf (eventFields_sublist L c es))
  exact get_assemble_mem _ f v ((pairwiseDisjoint_iff _).2 hd) h (hin f (List.mem_map_of_mem h)).2

theorem get_eventFields_chipid (L : Layout) (c : Nat) (es : List EventRequest) :
    get (assemble (eventFields L c es)) Field.chipid = c % 2 ^ 4 :=
  get_eventFields_mem L c es (by simp [eventFields])

theorem get_eventFields_eventp (L : Layout) (c : Nat) (es : List EventRequest) :
    get (assemble (eventFields L c es)) Field.eventp = 1 :=
  get_eventFields_mem (v := 1) L c es (by simp [eventFields])

theorem get_eventFields_tmsb (L : Layout) (c : Nat) (es : List EventRequest) :
    get (assemble (eventFields L c es)) Field.evTmsb = (sharedMsb es).toNat :=
  (get_eventFields_mem L c es (v := (sharedMsb es).toNat) (by simp [eventFields])).trans
    (Nat.mod_eq_of_lt (BitVec.isLt _))

theorem mem_eventFields (L : Layout) (c : Nat) (es : List EventRequest) (p : Field × Nat) :
    p ∈ eventFields L c es ↔
      p ∈ [(Field.eventp, 1), (Field.chipid, c), (Field.evTmsb, (sharedMsb es).toNat)] ∨
        ∃ k < 3, p ∈ recordFields L k es[k]? := by
  simp only [eventFields, List.mem_append, or_assoc]
  refine or_congr_right ⟨?_, ?_⟩
  · rintro (h | h | h)
    · exact ⟨0, by decide, h⟩
    · exact ⟨1, by decide, h⟩
    · exact ⟨2, by decide, h⟩
  · rintro ⟨k, hk, h⟩
    match k, hk with
    | 0, _ => exact .inl h
    | 1, _ => exact .inr (.inl h)
    | 2, _ => exact .inr (.inr h)

/-- The fields of a slot overlap neither the header nor another slot's nor each other (R93). -/
theorem slotLayout_disjoint : ∀ k < 3, ∀ f ∈ slotLayout k,
    (∀ g ∈ eventHeader, g.disjoint f = true) ∧ (∀ j < 3, ∀ g ∈ slotLayout j, g ≠ f → g.disjoint f = true) := by
  decide

theorem slotLayout_ne : ∀ j < 3, ∀ k < 3, j ≠ k → ∀ g ∈ slotLayout j, ∀ f ∈ slotLayout k, g ≠ f := by decide

/-- A field of a slot into which its record inserts nothing is 0. -/
theorem get_eventFields_zero (L : Layout) (c : Nat) (es : List EventRequest) {k : Nat} (hk : k < 3) {f : Field}
    (hf : f ∈ slotLayout k) (hno : f ∉ (recordFields L k es[k]?).map (·.1)) :
    get (assemble (eventFields L c es)) f = 0 := by
  have hin : ∀ k < 3, ∀ f ∈ slotLayout k, f.pos + f.width ≤ 64 := by decide
  obtain ⟨hheader, hslots⟩ := slotLayout_disjoint k hk f hf
  refine get_assemble_disjoint _ f (hin k hk f hf) fun p hp => ?_
  rcases (mem_eventFields L c es p).1 hp with h | ⟨j, hj, h⟩
  · exact hheader p.1 (List.mem_map_of_mem (f := (·.1)) h)
  · have hpj : p.1 ∈ slotLayout j := (recordFields_sublist L j _).subset (List.mem_map_of_mem h)
    refine hslots j hj p.1 hpj ?_
    by_cases hjk : j = k
    · subst hjk
      exact fun he => hno (he ▸ List.mem_map_of_mem h)
    · exact slotLayout_ne j hj k hk hjk p.1 hpj f hf

theorem ofNat_mod_two_pow (w n : Nat) : BitVec.ofNat w (n % 2 ^ w) = BitVec.ofNat w n :=
  BitVec.eq_of_toNat_eq (by simp)

/-- Each slot of a packed word is the one that its record stands for (R212, R214, R215). -/
theorem slotOf_eventFields {L : Layout} (c : Nat) (es : List EventRequest) {k : Nat}
    (hk : k < 3) : slotOf (assemble (eventFields L c es)) k = recordSlot L es[k]? := by
  have hmem : ∀ p ∈ recordFields L k es[k]?, get (assemble (eventFields L c es)) p.1 = p.2 % 2 ^ p.1.width :=
    fun p hp => get_eventFields_mem L c es ((mem_eventFields L c es p).2 (.inr ⟨k, hk, hp⟩))
  have hzero := fun f => get_eventFields_zero L c es hk (f := f)
  have hinvalid (h : recordFields L k es[k]? = [(Field.evValid k, 1 - L.evValidPolarity)]) :
      slotOf (assemble (eventFields L c es)) k = ⟨BitVec.ofNat 1 (1 - L.evValidPolarity), 0, 0, 0⟩ := by
    simp only [h, List.map_cons, List.map_nil, List.mem_singleton, forall_eq] at hmem hzero
    rw [slotOf, hmem, ofNat_mod_two_pow, hzero (Field.evTbin k) (by simp [slotLayout]) (by simp),
      hzero (Field.evTlsb k) (by simp [slotLayout]) (by simp), hzero (Field.evNadr k) (by simp [slotLayout]) (by simp)]
    rfl
  cases ho : es[k]? with
  | none => exact hinvalid (by rw [ho]; rfl)
  | some e =>
    cases hv : e.valid with
    | false => rw [hinvalid (by rw [ho]; simp [recordFields, hv])]; simp [recordSlot, hv]
    | true =>
      simp only [ho, recordFields, hv, if_true, slotFields, List.forall_mem_cons] at hmem
      obtain ⟨hvalid, hbin, hlsb, hadr, -⟩ := hmem
      rw [slotOf, hvalid, hbin, hlsb, hadr, ofNat_mod_two_pow, ofNat_mod_two_pow, ofNat_mod_two_pow, ofNat_mod_two_pow,
        BitVec.ofNat_toNat, BitVec.setWidth_eq, recordSlot, if_pos hv, recordLsb]

/-- A packed word reads as the event instruction of its records, at either face (R93, R212). -/
theorem decodeEvent_eventFields (L : Layout) (k : ChipId) (c : Nat) (es : List EventRequest) :
    decodeEvent k (assemble (eventFields L c es)) =
      .event k (sharedMsb es) (recordSlot L es[0]?) (recordSlot L es[1]?) (recordSlot L es[2]?) := by
  simp [decodeEvent, slotOf_eventFields, get_eventFields_tmsb]

/-! The events of a word. -/

/-- The event that a valid record becomes, its address and bin reduced to their widths (R215, R216). -/
def recordEvent (e : EventRequest) : Event :=
  ⟨e.absoluteTime, BitVec.ofNat 9 e.neuronAddress, BitVec.ofNat 4 e.timeBin, true⟩

/-- Only a valid record's slot has the polarity (R211, R214). -/
theorem slotValid_recordSlot {L : Layout} (hp : L.evValidPolarity ≤ 1) (o : Option EventRequest) :
    slotValid L (recordSlot L o) = o.any (·.valid) := by
  have h1 : L.evValidPolarity % 2 = L.evValidPolarity := by omega
  have h2 : (1 - L.evValidPolarity) % 2 ≠ L.evValidPolarity := by omega
  cases o with
  | none => simp [slotValid, recordSlot, h2]
  | some e => cases hv : e.valid <;> simp [slotValid, recordSlot, hv, h1, h2]

/-- Two halves of a time joined (R101). -/
theorem append_eq_ofNat (m l : BitVec 4) : m ++ l = BitVec.ofNat 8 (16 * m.toNat + l.toNat) := by
  apply BitVec.eq_of_toNat_eq
  have hm := m.isLt
  have hl := l.isLt
  rw [BitVec.toNat_append, ← Nat.shiftLeft_add_eq_or_of_lt l.isLt, Nat.shiftLeft_eq, BitVec.toNat_ofNat]
  omega

/-- Time MSB and LSB joined give the record's time (R101). -/
theorem recordMsb_append_recordLsb (e : EventRequest) : recordMsb e ++ recordLsb e = e.absoluteTime := by
  have h := e.absoluteTime.isLt
  rw [append_eq_ofNat]
  apply BitVec.eq_of_toNat_eq
  simp only [recordMsb, recordLsb, BitVec.toNat_ofNat, BitVec.extractLsb'_toNat, Nat.shiftRight_eq_div_pow]
  omega

theorem slotEvent_recordSlot (L : Layout) {e : EventRequest} (hv : e.valid = true) :
    slotEvent (recordMsb e) (recordSlot L (some e)) = recordEvent e := by
  rw [slotEvent, recordSlot, if_pos hv, ← recordLsb, recordMsb_append_recordLsb, recordEvent]

/-- The slots of records that share a time MSB deliver the events of the valid ones in order (R216, R218). -/
theorem slotEvents_recordSlots {L : Layout} (hp : L.evValidPolarity ≤ 1) (m : BitVec 4)
    (os : List (Option EventRequest)) (h : ∀ e, some e ∈ os → e.valid = true → recordMsb e = m) :
    slotEvents L m (os.map (recordSlot L)) = ((os.filterMap id).filter (·.valid)).map recordEvent := by
  induction os with
  | nil => rfl
  | cons o os ih =>
    have ih := ih fun e he => h e (List.mem_cons_of_mem _ he)
    simp only [slotEvents, List.map_cons] at ih ⊢
    have hv := slotValid_recordSlot hp o
    cases o with
    | none => simp_all
    | some e =>
      cases he : e.valid with
      | false => simp_all
      | true =>
        have hm := h e List.mem_cons_self he
        subst hm
        simp_all [slotEvent_recordSlot L he]

/-- All valid records of the list have the time MSB that the word shares (R213 (b)). -/
theorem msbAgree_iff (es : List EventRequest) :
    msbAgree es = true ↔ ∀ e ∈ es, e.valid = true → recordMsb e = sharedMsb es := by
  simp only [msbAgree, List.all_eq_true, Bool.or_eq_true, Bool.not_eq_true', beq_iff_eq]
  exact forall₂_congr fun e _ => by cases e.valid <;> simp

theorem sharedMsb_mem (es : List EventRequest) {e : EventRequest} (he : e ∈ es) (hv : e.valid = true) :
    ∃ a ∈ es, a.valid = true ∧ sharedMsb es = recordMsb a := by
  have hne : e ∈ es.filter (·.valid) := List.mem_filter.2 ⟨he, hv⟩
  unfold sharedMsb
  split
  · next h => simp [h] at hne
  · next a _ h =>
    have ha : a ∈ es.filter (·.valid) := h ▸ List.mem_cons_self
    exact ⟨a, (List.mem_filter.1 ha).1, (List.mem_filter.1 ha).2, rfl⟩

theorem msbAgree_iff_pairs (es : List EventRequest) :
    msbAgree es = true ↔ ∀ a ∈ es, ∀ b ∈ es, a.valid = true → b.valid = true → recordMsb a = recordMsb b := by
  rw [msbAgree_iff]
  refine ⟨fun h a ha b hb hva hvb => (h a ha hva).trans (h b hb hvb).symm, fun h e he hv => ?_⟩
  obtain ⟨a, ha, hva, hm⟩ := sharedMsb_mem es he hv
  exact hm ▸ h e he a ha hv hva

/-- Settles O48: the word's three slots are those of the records, absent records deliver nothing, and the shared time
MSB is every valid record's own. -/
theorem eventRoundTrip : Obligations.EventRoundTrip := by
  intro L c es hL hc hlen hmsb
  have hchip : get (assemble (eventFields L c es)) Field.chipid ≠ 15 := by
    rw [get_eventFields_chipid]
    omega
  have hos : [es[0]?, es[1]?, es[2]?].filterMap id = es := by
    match es, hlen with
    | [], _ | [_], _ | [_, _], _ | [_, _, _], _ => rfl
  calc unpackEvents L (assemble (eventFields L c es))
      = slotEvents L (sharedMsb es) ([es[0]?, es[1]?, es[2]?].map (recordSlot L)) := by
        simp [unpackEvents, hchip, slotOf_eventFields, get_eventFields_tmsb]
    _ = (([es[0]?, es[1]?, es[2]?].filterMap id).filter (·.valid)).map recordEvent :=
        slotEvents_recordSlots (Layout.wf_polarity hL) _ _ fun e he =>
          (msbAgree_iff es).1 hmsb e (hos ▸ List.mem_filterMap.2 ⟨some e, he, rfl⟩)
    _ = (es.filter (·.valid)).map recordEvent := by rw [hos]

/-! `EV.COMPRESS`. -/

/-- A group that `EV.COMPRESS` fills: valid records of one time MSB, at most three (R219). -/
structure IsGroup (g : List EventRequest) : Prop where
  valid : ∀ e ∈ g, e.valid = true
  length_le : g.length ≤ 3
  msb : ∀ e ∈ g, recordMsb e = sharedMsb g

theorem isGroup_singleton {e : EventRequest} (h : e.valid = true) : IsGroup [e] :=
  ⟨by simpa using h, by simp, by simp [sharedMsb, h]⟩

/-- A record of the group's time MSB joins a group that has room. -/
theorem IsGroup.append {g : List EventRequest} {e : EventRequest} (hg : IsGroup g) (he : e.valid = true)
    (h : g = [] ∨ g.length ≠ 3 ∧ recordMsb e = sharedMsb g) : IsGroup (g ++ [e]) := by
  cases g with
  | nil => exact isGroup_singleton he
  | cons a g =>
    obtain ⟨hlen, hmsb⟩ := h.resolve_left (List.cons_ne_nil a g)
    have hle := hg.length_le
    have ha : a.valid = true := hg.valid a List.mem_cons_self
    have hshared : sharedMsb (a :: g ++ [e]) = sharedMsb (a :: g) := by simp [sharedMsb, ha]
    refine ⟨fun x hx => ?_, by simp at *; omega, fun x hx => ?_⟩
    · rcases List.mem_append.1 hx with hx | hx
      · exact hg.valid x hx
      · exact List.mem_singleton.1 hx ▸ he
    · rw [hshared]
      rcases List.mem_append.1 hx with hx | hx
      · exact hg.msb x hx
      · exact List.mem_singleton.1 hx ▸ hmsb

/-- The greedy grouping only cuts the sequence into groups (R219). -/
theorem groupEvents_spec (es g : List EventRequest) (hg : IsGroup g) (hes : ∀ e ∈ es, e.valid = true) :
    (∀ x ∈ groupEvents g es, x ≠ [] ∧ IsGroup x) ∧ (groupEvents g es).flatten = g ++ es := by
  induction es generalizing g with
  | nil => cases g <;> simp_all [groupEvents]
  | cons e es ih =>
    have he := hes e List.mem_cons_self
    have hrest : ∀ x ∈ es, x.valid = true := fun x hx => hes x (List.mem_cons_of_mem _ hx)
    rw [groupEvents]
    split
    · next hcut =>
      obtain ⟨hall, hflat⟩ := ih [e] (isGroup_singleton he) hrest
      have hne : g ≠ [] := by
        rintro rfl
        simp at hcut
      refine ⟨fun x hx => ?_, by simp [hflat]⟩
      rcases List.mem_cons.1 hx with rfl | hx
      · exact ⟨hne, hg⟩
      · exact hall x hx
    · next hjoin =>
      have hroom : g = [] ∨ g.length ≠ 3 ∧ recordMsb e = sharedMsb g := by
        cases g <;> simp_all
      obtain ⟨hall, hflat⟩ := ih (g ++ [e]) (hg.append he hroom) hrest
      exact ⟨hall, by simp [hflat]⟩

/-- Settles O49: every group is one that `packEvents` takes, so its word gives its records back, and the groups one
after another are the valid records of the sequence. -/
theorem compressRoundTrip : Obligations.CompressRoundTrip := by
  intro L c es hL hc
  obtain ⟨hall, hflat⟩ := groupEvents_spec (es.filter (·.valid)) [] ⟨by simp, by simp, by simp⟩ (by simp)
  have hagree {g : List EventRequest} (hg : IsGroup g) : msbAgree g = true :=
    (msbAgree_iff g).2 fun e he _ => hg.msb e he
  refine ⟨fun g hg => ⟨(hall g hg).1, (hall g hg).2.length_le, hagree (hall g hg).2⟩, ?_⟩
  have hunpack : ∀ g ∈ compressGroups es,
      unpackEvents L (assemble (eventFields L c g)) = g.map recordEvent := fun g hg => by
    have hgroup := (hall g hg).2
    rw [eventRoundTrip L c g hL hc hgroup.length_le (hagree hgroup), List.filter_eq_self.2 hgroup.valid]
    rfl
  calc (compressGroups es).flatMap (fun g => unpackEvents L (assemble (eventFields L c g)))
      = (compressGroups es).flatMap (fun g => g.map recordEvent) := List.flatMap_congr hunpack
    _ = (compressGroups es).flatten.map recordEvent := by simp [List.flatMap, List.map_flatten]
    _ = (es.filter (·.valid)).map recordEvent := by rw [compressGroups, hflat, List.nil_append]

/-! Delivery. -/

/-- The events of a word's slots, their times in arithmetic (R101, R216). -/
theorem slotEvents_eq_filterMap (L : Layout) (m : BitVec 4) (slots : List Slot) :
    slotEvents L m slots = slots.filterMap fun x =>
      if x.valid.toNat = L.evValidPolarity
      then some ⟨BitVec.ofNat 8 (16 * m.toNat + x.tlsb.toNat), x.nadr, x.tbin, true⟩ else none := by
  induction slots with
  | nil => rfl
  | cons x slots ih =>
    simp only [slotEvents] at ih ⊢
    by_cases hx : x.valid.toNat = L.evValidPolarity
    · simp [slotValid, hx, ih, slotEvent, append_eq_ofNat]
    · simp [slotValid, hx, ih]

/-- Settles O20: the consumer that took the word says where the events go, the slots say which. -/
theorem eventWordsDeliver : Obligations.EventWordsDeliver := by
  intro s k m s0 s1 s2 es hes
  rw [← slotEvents_eq_filterMap] at hes
  subst hes
  refine ⟨fun hside hp => ⟨_, ?_, OnlyChip.setChip s k _, State.setChip_chip_same s k _⟩, fun hside => ?_⟩
  · simp only [exec, execEvent, hside]
    exact onDevice_present k s _ hp
  · simp only [exec, execEvent, hside]

end Sys2Proof.Machine
end


section
/-! The device face: what each word does to the device it is for, and what it is answered with. A word whose device
is present does what its row says of that device (`onDevice_of_present`); the lemmas about memories and reads say the
rest. -/

namespace Sys2Proof.Machine

/-! The device's rows: each is the test of the strap, then what the row does to the device `c`. -/

section Rows

variable (k : ChipId) (s : State)

theorem exec_dlSet (a : Nat) (v : BitVec 3) : exec (.dlSet k a v) s = onDevice k s fun c =>
    if a < 36 then .next (s.setChip k { c with dl := c.dl.write a v }) else .refused .undefinedEncoding := rfl

theorem exec_event_device (m : BitVec 4) (s0 s1 s2 : Slot) (hs : s.side = .device) :
    exec (.event k m s0 s1 s2) s = onDevice k s fun c =>
      .next (s.setChip k { c with evOut := c.evOut ++ slotEvents s.layout m [s0, s1, s2] }) := by
  simp only [exec, execEvent, hs]

theorem exec_prWrite (a p1 p2 p3 : Nat) : exec (.prWrite k a p1 p2 p3) s = onDevice k s fun c =>
    if paramAddressOk s.layout a then .next (s.setChip k { c with pram := c.pram.write a ⟨p1, p2, p3⟩ })
    else .refused .undefinedEncoding := rfl

theorem exec_prRead (a : Nat) : exec (.prRead k a) s = onDevice k s fun c =>
    if paramAddressOk s.layout a then
      .next ((readTriple s c.pram a).2.respond (encode s.layout (.prReadResp k a (readTriple s c.pram a).1.p1
        (readTriple s c.pram a).1.p2 (readTriple s c.pram a).1.p3)))
    else .refused .undefinedEncoding := rfl

theorem exec_prPeriod (v : Nat) : exec (.prPeriod k v) s = onDevice k s fun c =>
    .next (s.setChip k { c with period := ⟨v, true⟩ }) := rfl

theorem exec_prLut (idx time boost rep step : Nat) : exec (.prLut k idx time boost rep step) s = onDevice k s fun c =>
    if idx < s.layout.lutN then .next (s.setChip k { c with lut := c.lut.write idx ⟨time, boost, rep, step⟩ })
    else .refused .undefinedEncoding := rfl

theorem exec_prCount (v : Nat) : exec (.prCount k v) s = onDevice k s fun c =>
    .next (s.setChip k { c with pcount := ⟨v, true⟩ }) := rfl

theorem exec_ctrlWrite (val : BitVec 32) (fmask : BitVec 8) : exec (.ctrlWrite k val fmask) s = onDevice k s fun c =>
    .next (s.setChip k { c with cr := maskedWrite s.layout c.cr val fmask }) := rfl

theorem exec_statusRead0 : exec (.statusRead0 k) s = onDevice k s fun c =>
    .next (s.respond (encode s.layout (.statusResp0 k c.cr c.revision))) := rfl

theorem exec_statusRead1 : exec (.statusRead1 k) s = onDevice k s fun _ =>
    .next ((s.took 2).respond
      (encode s.layout (.statusResp1 k (s.drawAt 0 4) (s.drawAt 1 s.layout.fposW).toNat))) := rfl

theorem exec_statusRead2 : exec (.statusRead2 k) s = onDevice k s fun _ =>
    .next ((s.took 2).respond
      (encode s.layout (.statusResp2 k (s.drawAt 0 4) (s.drawAt 1 s.layout.fposW).toNat))) := rfl

theorem exec_statusRead3 : exec (.statusRead3 k) s = onDevice k s fun _ =>
    .next ((s.took 4).respond (encode s.layout (.statusResp3 k (s.drawAt 0 4) (s.drawAt 1 s.layout.fposW).toNat
      (s.drawAt 2 4) (s.drawAt 3 1)))) := rfl

theorem exec_scCtrlR : exec (.scCtrlR k) s = onDevice k s fun c =>
    .next (scAnswer k 0#3 0 0 (c.ctrlData s.layout, s)) := rfl

theorem exec_scTimeW (v : Nat) : exec (.scTimeW k v) s = onDevice k s fun c =>
    .next (s.setChip k { c with sctime := ⟨v, true⟩ }) := rfl

theorem exec_scTimeR : exec (.scTimeR k) s = onDevice k s fun c =>
    .next (scAnswer k 1#3 0 0 (readReg s c.sctime s.layout.scData.width)) := rfl

theorem exec_scPlutW (row col data : Nat) : exec (.scPlutW k row col data) s = onDevice k s fun c =>
    onElement s.layout c row col
      (.next (s.setChip k { c with plut := c.plut.write (synapseIndex s.layout row col) data })) := rfl

theorem exec_scPlutR (row col : Nat) : exec (.scPlutR k row col) s = onDevice k s fun c =>
    onElement s.layout c row col
      (.next (scAnswer k 2#3 row col (readData s c.plut (synapseIndex s.layout row col)))) := rfl

theorem exec_scSynW (row col data : Nat) : exec (.scSynW k row col data) s = onDevice k s fun c =>
    onElement s.layout c row col
      (.next (s.setChip k { c with syn := c.syn.write (synapseIndex s.layout row col) data })) := rfl

theorem exec_scSynR (row col : Nat) : exec (.scSynR k row col) s = onDevice k s fun c =>
    onElement s.layout c row col
      (.next (scAnswer k 3#3 row col (readData s c.syn (synapseIndex s.layout row col)))) := rfl

theorem exec_scClose : exec (.scClose k) s = onDevice k s fun c => whileIdle c (.next s) := rfl

theorem exec_scCorRead (col : Nat) : exec (.scCorRead k col) s = onDevice k s fun _ =>
    if col < s.layout.scCols then
      .next (scAnswer k 5#3 0 col ((s.drawAt 0 s.layout.scData.width).toNat, s.took 1))
    else .refused .undefinedEncoding := rfl

theorem exec_scPcor : exec (.scPcor k) s = onDevice k s fun c =>
    whileIdle c (.next (s.setChip k { c with done := false, busy := true })) := rfl

theorem exec_scPcorc : exec (.scPcorc k) s = onDevice k s fun c =>
    whileIdle c (.next (s.setChip k { c with done := false, busy := true })) := rfl

/-- The five bare commands have no meaning at the device (R275). -/
theorem exec_misc_device (m : MiscCmd) (rwb : BitVec 1) (ci : BitVec 53) (hs : s.side = .device) :
    exec (m.instr k rwb ci) s = onDevice k s fun _ => .refused .unmodelled := by
  cases m <;> simp only [MiscCmd.instr, exec, execSync, execLoopback, execAreadout, execEvloopback, execDummycmd,
    bareCommand, hs]

end Rows

/-- Settles O10: every row of the device face tests first whether the word's chip has a device. -/
theorem absentChipSkips : Obligations.AbsentChipSkips := by
  intro s i k hside hk habsent hreq
  cases i with
  | empty => rfl
  | errorResp | prReadResp | statusResp0 | statusResp1 | statusResp2 | statusResp3 | scResp =>
    simp [Instr.isPacketRequest] at hreq
  | event =>
    cases hk
    rw [exec_event_device k s _ _ _ _ hside, onDevice_absent k s _ habsent]
  | sync _ rwb ci =>
    cases hk
    exact (exec_misc_device k s .sync rwb ci hside).trans (onDevice_absent k s _ habsent)
  | loopback _ rwb ci =>
    cases hk
    exact (exec_misc_device k s .loopback rwb ci hside).trans (onDevice_absent k s _ habsent)
  | areadout _ rwb ci =>
    cases hk
    exact (exec_misc_device k s .areadout rwb ci hside).trans (onDevice_absent k s _ habsent)
  | evloopback _ rwb ci =>
    cases hk
    exact (exec_misc_device k s .evloopback rwb ci hside).trans (onDevice_absent k s _ habsent)
  | dummycmd _ rwb ci =>
    cases hk
    exact (exec_misc_device k s .dummycmd rwb ci hside).trans (onDevice_absent k s _ habsent)
  | dlSet | prWrite | prRead | prPeriod | prLut | prCount | ctrlWrite | statusRead0 | statusRead1 | statusRead2
  | statusRead3 | scCtrlR | scTimeW | scTimeR | scPlutW | scPlutR | scSynW | scSynR | scClose | scCorRead | scPcor
  | scPcorc =>
    cases hk
    exact if_neg (by simp [habsent])

/-! Refusals. -/

theorem whileIdle_busy {c : Chip} (o : Host.Outcome State Fault Refusal) (h : c.busy = true) :
    whileIdle c o = .refused .unspecifiedTransition := by
  simp [whileIdle, h]

theorem onElement_beyond {L : Layout} {c : Chip} {row col : Nat} (o : Host.Outcome State Fault Refusal)
    (hb : c.busy = false) (h : L.scRows ≤ row ∨ L.scCols ≤ col) :
    onElement L c row col o = .refused .undefinedEncoding := by
  have : synapseAddressOk L row col = false := by
    simp only [synapseAddressOk, Bool.and_eq_false_iff, decide_eq_false_iff_not]
    omega
  simp [onElement, whileIdle, hb, this]

theorem paramAddressOk_of_lt {L : Layout} {a : Nat} (h : a < L.prTotal) : paramAddressOk L a = true := decide_eq_true h

theorem paramAddressOk_of_ge {L : Layout} {a : Nat} (h : L.prTotal ≤ a) : ¬ paramAddressOk L a = true := by
  simpa [paramAddressOk] using h

/-- Settles O11: the tests after the strap's are the address's and the pass's. -/
theorem deviceRefusals : Obligations.DeviceRefusals := by
  intro s k hp
  refine ⟨fun a p1 p2 p3 ha => ?_, fun a ha => ?_, fun a v ha => ?_, fun i a b c d hi => ?_, fun c hc => ?_,
    fun hb r c d hrc i hi => ?_, fun hb r c d i hi => ?_⟩
  · rw [exec_prWrite, onDevice_present _ _ _ hp, if_neg (paramAddressOk_of_ge ha)]
  · rw [exec_prRead, onDevice_present _ _ _ hp, if_neg (paramAddressOk_of_ge ha)]
  · rw [exec_dlSet, onDevice_present _ _ _ hp, if_neg (Nat.not_lt.2 ha)]
  · rw [exec_prLut, onDevice_present _ _ _ hp, if_neg (Nat.not_lt.2 hi)]
  · rw [exec_scCorRead, onDevice_present _ _ _ hp, if_neg (Nat.not_lt.2 hc)]
  · simp only [List.mem_cons, List.not_mem_nil, or_false] at hi
    rcases hi with rfl | rfl | rfl | rfl
    · rw [exec_scPlutW, onDevice_present _ _ _ hp, onElement_beyond _ hb hrc]
    · rw [exec_scPlutR, onDevice_present _ _ _ hp, onElement_beyond _ hb hrc]
    · rw [exec_scSynW, onDevice_present _ _ _ hp, onElement_beyond _ hb hrc]
    · rw [exec_scSynR, onDevice_present _ _ _ hp, onElement_beyond _ hb hrc]
  · simp only [List.mem_cons, List.not_mem_nil, or_false] at hi
    rcases hi with rfl | rfl | rfl | rfl | rfl | rfl | rfl
    · rw [exec_scPlutW, onDevice_present _ _ _ hp, onElement, whileIdle_busy _ hb]
    · rw [exec_scPlutR, onDevice_present _ _ _ hp, onElement, whileIdle_busy _ hb]
    · rw [exec_scSynW, onDevice_present _ _ _ hp, onElement, whileIdle_busy _ hb]
    · rw [exec_scSynR, onDevice_present _ _ _ hp, onElement, whileIdle_busy _ hb]
    · rw [exec_scClose, onDevice_present _ _ _ hp, whileIdle_busy _ hb]
    · rw [exec_scPcor, onDevice_present _ _ _ hp, whileIdle_busy _ hb]
    · rw [exec_scPcorc, onDevice_present _ _ _ hp, whileIdle_busy _ hb]

/-- Settles O32: the device side of a bare command has no meaning but the refusal. -/
theorem bareCommandsRefusedAtDevice : Obligations.BareCommandsRefusedAtDevice := by
  intro s k rwb ci hside hp i hi
  have hrefused (m : MiscCmd) : exec (m.instr k rwb ci) s = .refused .unmodelled :=
    (exec_misc_device k s m rwb ci hside).trans (onDevice_present k s _ hp)
  simp only [List.mem_cons, List.not_mem_nil, or_false] at hi
  rcases hi with rfl | rfl | rfl | rfl | rfl
  exacts [hrefused .sync, hrefused .loopback, hrefused .areadout, hrefused .evloopback, hrefused .dummycmd]

/-! Writes. -/

/-- A present device's new contents are what the word gives, and nothing else changes. -/
theorem stores_of_present {k : ChipId} {s : State} {f : Chip → Host.Outcome State Fault Refusal} {c : Chip}
    (hp : (s.chip k).present = true) (hf : f (s.chip k) = .next (s.setChip k c)) :
    ∃ t, onDevice k s f = .next t ∧ OnlyChip k s t ∧ t.chip k = c :=
  ⟨_, onDevice_of_present hp hf, OnlyChip.setChip s k c, State.setChip_chip_same s k c⟩

/-- Settles O12: the three rows have no test but the strap's. -/
theorem registerWritesStore : Obligations.RegisterWritesStore := by
  intro s k v hp
  rw [exec_prPeriod, exec_prCount, exec_scTimeW]
  exact ⟨stores_of_present hp rfl, stores_of_present hp rfl, stores_of_present hp rfl⟩

theorem sameBut_write {α : Type} (m : Memory α) (a : Nat) (v : α) : SameBut a m (m.write a v) :=
  fun b hb => Memory.read_write_ne m a b v hb

/-- Settles O16: the entry written reads back whole, and the memory's law says that every other one reads as before. -/
theorem paramWriteStores : Obligations.ParamWriteStores := by
  intro s k a p1 p2 p3 hp ha
  obtain ⟨t, ht, honly, hc⟩ := stores_of_present (f := fun c => _) hp (if_pos (paramAddressOk_of_lt ha))
  refine ⟨t, (exec_prWrite k s a p1 p2 p3).trans ht, honly, ?_⟩
  rw [hc]
  exact ⟨rfl, Memory.read_write_same _ _ _, sameBut_write _ _ _⟩

/-- Settles O18, as for the parameter RAM. -/
theorem tableWritesStore : Obligations.TableWritesStore := by
  intro s k hp
  refine ⟨fun idx time boost rep step hi => ?_, fun a v ha => ?_⟩
  · obtain ⟨t, ht, honly, hc⟩ := stores_of_present (f := fun c => _) hp (if_pos hi)
    refine ⟨t, (exec_prLut k s idx time boost rep step).trans ht, honly, ?_⟩
    rw [hc]
    exact ⟨rfl, Memory.read_write_same _ _ _, sameBut_write _ _ _⟩
  · obtain ⟨t, ht, honly, hc⟩ := stores_of_present (f := fun c => _) hp (if_pos ha)
    refine ⟨t, (exec_dlSet k s a v).trans ht, honly, ?_⟩
    rw [hc]
    exact ⟨rfl, Memory.read_write_same _ _ _, sameBut_write _ _ _⟩

/-- Writing one element of a row-major memory leaves the elements at every other pair (R252, R253). -/
theorem read_write_synapse {L : Layout} (m : Memory Nat) {row col row' col' : Nat} (data : Nat) (hc : col < L.scCols)
    (hc' : col' < L.scCols) (hne : (row', col') ≠ (row, col)) :
    (m.write (synapseIndex L row col) data).read (synapseIndex L row' col') = m.read (synapseIndex L row' col') :=
  Memory.read_write_ne _ _ _ _ fun h => hne (Prod.ext_iff.2 (synapseIndex_inj hc' hc h))

/-- Settles O22: the element number tells the pairs inside the arrays apart. -/
theorem synapseWritesStore : Obligations.SynapseWritesStore := by
  intro s k row col data hp hb hr hc
  constructor
  · obtain ⟨t, ht, honly, hchip⟩ := stores_of_present (f := fun c => _) hp (onElement_ok _ _ _ _ _ hb hr hc)
    refine ⟨t, (exec_scPlutW k s row col data).trans ht, honly, ?_⟩
    rw [hchip]
    exact ⟨rfl, Memory.read_write_same _ _ _, fun row' col' hc' hne => read_write_synapse _ data hc hc' hne⟩
  · obtain ⟨t, ht, honly, hchip⟩ := stores_of_present (f := fun c => _) hp (onElement_ok _ _ _ _ _ hb hr hc)
    refine ⟨t, (exec_scSynW k s row col data).trans ht, honly, ?_⟩
    rw [hchip]
    exact ⟨rfl, Memory.read_write_same _ _ _, fun row' col' hc' hne => read_write_synapse _ data hc hc' hne⟩

/-- Settles O24: while no pass runs, `whileIdle` lets the row's meaning through. -/
theorem rowDirectivesAtDevice : Obligations.RowDirectivesAtDevice := by
  intro s k hp hb
  rw [exec_scPcor, exec_scPcorc, exec_scClose]
  exact ⟨stores_of_present hp (whileIdle_idle _ _ hb), stores_of_present hp (whileIdle_idle _ _ hb),
    onDevice_of_present hp (whileIdle_idle _ _ hb)⟩

/-- Settles O25: COR's step is the completion step, which looks at `BUSY` alone. -/
theorem completionStepEndsPass : Obligations.CompletionStepEndsPass := by
  intro s k later hL hs
  have hstep : step s = .next (completionStep k { s with schedule := later }) := step_scheduled hL hs
  rw [hstep]
  refine ⟨fun hb => ?_, fun hb => congrArg _ (if_neg (Bool.eq_false_iff.1 hb))⟩
  have hcomplete : completionStep k { s with schedule := later } =
      State.setChip { s with schedule := later } k (s.chip k).completePass := if_pos hb
  rw [hcomplete]
  refine ⟨_, rfl, OnlyChip.setChip _ k _, ?_⟩
  rw [State.setChip_chip_same]
  exact ⟨rfl, fun a => rfl⟩

/-! Reads: one response, `n` free values taken, nothing else. -/

theorem answered_respond (s : State) (n : Nat) (w : Word) : Answered w n s ((s.took n).respond w) := rfl

/-- The state in which an answer is put together has taken `n` free values. -/
theorem answered_scAnswer (s : State) (k : ChipId) (sub : BitVec 3) (row col d n : Nat) :
    Answered (encode s.layout (.scResp k sub row col d)) n s (scAnswer k sub row col (d, s.took n)) := rfl

/-- Settles O17: the triple read is the one written, or a free one of the parameters' widths (R188). -/
theorem paramReadAnswers : Obligations.ParamReadAnswers := by
  intro s k a hp ha
  rw [exec_prRead, onDevice_present _ _ _ hp, if_pos (paramAddressOk_of_lt ha)]
  rcases readTriple_spec s (s.chip k).pram a with ⟨v, hv, hr⟩ | ⟨hv, v, hr, h1, h2, h3⟩ <;> rw [hr]
  · refine ⟨fun v' hv' => ?_, fun hn => by simp [hv] at hn⟩
    obtain rfl := Option.some.inj (hv.symm.trans hv')
    exact ⟨_, rfl, answered_respond s 0 _⟩
  · exact ⟨fun v' hv' => by simp [hv] at hv', fun _ => ⟨v, 3, _, by simp [tripleFits, Field.fits, h1, h2, h3], rfl,
      answered_respond s 3 _⟩⟩

/-- Settles O19: views 1 to 3 sample their inputs, whose widths bound them. -/
theorem statusReadsAnswer : Obligations.StatusReadsAnswer := by
  intro s k hp
  rw [exec_statusRead0, exec_statusRead1, exec_statusRead2, exec_statusRead3, onDevice_present _ _ _ hp,
    onDevice_present _ _ _ hp, onDevice_present _ _ _ hp, onDevice_present _ _ _ hp]
  exact ⟨⟨_, rfl, answered_respond s 0 _⟩, ⟨_, _, 2, _, BitVec.isLt _, rfl, answered_respond s 2 _⟩,
    ⟨_, _, 2, _, BitVec.isLt _, rfl, answered_respond s 2 _⟩,
    ⟨_, _, _, _, 4, _, BitVec.isLt _, rfl, answered_respond s 4 _⟩⟩

/-- The answer to a read of an element: the one written, or a free one of the data field's width (R253, R254). -/
theorem answered_readData (s : State) (k : ChipId) (sub : BitVec 3) (row col a : Nat) (m : Memory Nat) :
    (∀ d, m.read a = some d → ∃ t, Host.Outcome.next (φ := Fault) (ρ := Refusal)
        (scAnswer k sub row col (readData s m a)) = .next t ∧
        Answered (encode s.layout (.scResp k sub row col d)) 0 s t) ∧
      (m.read a = none → ∃ d n t, d < 2 ^ s.layout.scData.width ∧
        Host.Outcome.next (φ := Fault) (ρ := Refusal) (scAnswer k sub row col (readData s m a)) = .next t ∧
        Answered (encode s.layout (.scResp k sub row col d)) n s t) := by
  rcases readData_spec s m a with ⟨v, hv, hr⟩ | ⟨hv, v, hr, hlt⟩ <;> rw [hr]
  · refine ⟨fun d hd => ?_, fun hn => by simp [hv] at hn⟩
    obtain rfl := Option.some.inj (hv.symm.trans hd)
    exact ⟨_, rfl, answered_scAnswer s k sub row col v 0⟩
  · exact ⟨fun d hd => by simp [hv] at hd, fun _ => ⟨v, 1, _, hlt, rfl, answered_scAnswer s k sub row col v 1⟩⟩

/-- Settles O23: the two memories are read alike. -/
theorem synapseReadsAnswer : Obligations.SynapseReadsAnswer := by
  intro s k row col hp hb hr hc
  rw [exec_scPlutR, exec_scSynR, onDevice_present _ _ _ hp, onDevice_present _ _ _ hp, onElement_ok _ _ _ _ _ hb hr hc,
    onElement_ok _ _ _ _ _ hb hr hc]
  obtain ⟨hknown, hfree⟩ := answered_readData s k 2#3 row col (synapseIndex s.layout row col) (s.chip k).plut
  exact ⟨hknown, hfree, answered_readData s k 3#3 row col (synapseIndex s.layout row col) (s.chip k).syn⟩

/-- Two different powers of two have no bit in common, so their sum is their union. -/
theorem two_pow_add_eq_or {a b : Nat} (hab : a ≠ b) : 2 ^ a + 2 ^ b = 2 ^ a ||| 2 ^ b := by
  rcases Nat.lt_or_gt_of_ne hab with h | h
  · exact (Nat.or_two_pow_eq_add_of_lt (Nat.pow_lt_pow_right (by decide) h)).symm
  · rw [Nat.add_comm, Nat.or_comm]
    exact (Nat.or_two_pow_eq_add_of_lt (Nat.pow_lt_pow_right (by decide) h)).symm

/-- The ctrl/status data field shows `DONE` and `CMERR` at their offsets and 0 elsewhere (R250). -/
theorem testBit_ctrlData {L : Layout} (hoff : L.scDoneOff ≠ L.scCmerrOff) (c : Chip) (i : Nat) :
    (c.ctrlData L).testBit i = (c.done && decide (L.scDoneOff = i) || c.cmerr && decide (L.scCmerrOff = i)) := by
  cases hd : c.done <;> cases hc : c.cmerr <;>
    simp [Chip.ctrlData, hd, hc, two_pow_add_eq_or hoff, Nat.testBit_two_pow]

/-- Settles O21: the two bits stand apart in the data field; the register is read as written or free, the correlation
data is an input. -/
theorem synapseRegisterReadsAnswer : Obligations.SynapseRegisterReadsAnswer := by
  intro s k hL hp
  obtain ⟨-, -, -, -, -, hoff⟩ := Layout.wf_scNumbers hL
  rw [exec_scCtrlR, exec_scTimeR, onDevice_present _ _ _ hp, onDevice_present _ _ _ hp]
  refine ⟨⟨_, _, rfl, answered_scAnswer s k _ _ _ _ 0, ?_, ?_, fun i hd hc => ?_⟩, ?_⟩
  · simp [testBit_ctrlData hoff, hoff.symm]
  · simp [testBit_ctrlData hoff, hoff]
  · simp [testBit_ctrlData hoff, Ne.symm hd, Ne.symm hc]
  have hcor : ∀ col, col < s.layout.scCols → ∃ d n t, d < 2 ^ s.layout.scData.width ∧
      exec (.scCorRead k col) s = .next t ∧ Answered (encode s.layout (.scResp k 5#3 0 col d)) n s t :=
    fun col hcol => by
    rw [exec_scCorRead, onDevice_present _ _ _ hp, if_pos hcol]
    exact ⟨_, 1, _, BitVec.isLt _, rfl, answered_scAnswer s k _ _ _ _ 1⟩
  rcases readReg_spec s (s.chip k).sctime s.layout.scData.width with ⟨hdef, hr⟩ | ⟨hdef, v, hr, hlt⟩ <;> rw [hr]
  · exact ⟨fun _ => ⟨_, rfl, answered_scAnswer s k _ _ _ _ 0⟩, fun h => by simp [hdef] at h, hcor⟩
  · exact ⟨fun h => by simp [hdef] at h, fun _ => ⟨v, 1, _, hlt, rfl, answered_scAnswer s k _ _ _ _ 1⟩, hcor⟩

end Sys2Proof.Machine
end


section
/-! The control register (42_control_status): the masked write field by field and bit by bit, its laws, its reset value,
and what its views show. -/

namespace Sys2Proof.Machine

/-! The masked write. -/

/-- A field that the mask selects takes the value's bits, every other field stays (R158). -/
theorem get_maskedWrite {L : Layout} (hL : L.wf = true) (cr val : BitVec 32) (fmask : BitVec 8) (f : ControlField) :
    get (maskedWrite L cr val fmask) (L.crField f) =
      if fmask.getLsbD f.index then get val (L.crField f) else get cr (L.crField f) := by
  have hin := crField_inside hL f
  apply Nat.eq_of_testBit_eq
  intro i
  by_cases hi : i < (L.crField f).width
  · rw [testBit_get, getLsbD_maskedWrite L cr val fmask _ (by omega), any_maskSelects hL fmask f i hi]
    split <;> simp [testBit_get]
  · split <;> simp [testBit_get, hi]

/-- A reserved bit is never written (R31). -/
theorem getLsbD_maskedWrite_reserved {L : Layout} (cr val : BitVec 32) (fmask : BitVec 8) {i : Nat}
    (hi : L.crReserved i = true) : (maskedWrite L cr val fmask).getLsbD i = cr.getLsbD i := by
  by_cases h : i < 32
  · rw [getLsbD_maskedWrite L cr val fmask i h, any_maskSelects_reserved fmask hi, if_neg Bool.false_ne_true]
  · rw [BitVec.getLsbD_of_ge _ _ (by omega), BitVec.getLsbD_of_ge _ _ (by omega)]

/-- A bit of the register stands in one field, whose mask bit selects it, or in none and is reserved. -/
theorem any_maskSelects_cases {L : Layout} (hL : L.wf = true) (i : Nat) :
    (∃ f : ControlField, ∀ m, ControlField.all.any (maskSelects L m i) = m.getLsbD f.index) ∨
      ∀ m, ControlField.all.any (maskSelects L m i) = false := by
  cases hr : L.crReserved i with
  | true => exact .inr fun m => any_maskSelects_reserved m hr
  | false =>
    simp only [Layout.crReserved, List.all_eq_false, Bool.not_eq_true, Bool.not_eq_false', Bool.and_eq_true,
      decide_eq_true_eq] at hr
    obtain ⟨f, -, hlo, hhi⟩ := hr
    refine .inl ⟨f, fun m => ?_⟩
    have h := any_maskSelects hL m f (i - (L.crField f).pos) (by omega)
    rwa [Nat.add_sub_cancel' hlo] at h

/-- Settles O13: the register after the word is the masked write of what it held. -/
theorem ctrlWriteIsMasked : Obligations.CtrlWriteIsMasked := by
  intro s k val fmask hL hp
  obtain ⟨t, ht, honly, hc⟩ := stores_of_present (f := fun c =>
    .next (s.setChip k { c with cr := maskedWrite s.layout c.cr val fmask })) hp rfl
  refine ⟨t, (exec_ctrlWrite k s val fmask).trans ht, honly, ?_⟩
  rw [hc]
  exact ⟨rfl, get_maskedWrite hL _ val fmask, fun i hi => getLsbD_maskedWrite_reserved _ val fmask hi⟩

/-- Registers that agree on the bits of the masked writes are the same. -/
theorem crReservedZero_iff (L : Layout) (cr : BitVec 32) :
    crReservedZero L cr = true ↔ ∀ i < 32, L.crReserved i = true → cr.getLsbD i = false := by
  simp only [crReservedZero, List.all_eq_true, List.mem_range, Bool.or_eq_true, Bool.not_eq_true']
  exact forall₂_congr fun i _ => by cases L.crReserved i <;> simp

theorem crReservedZero_maskedWrite {L : Layout} {cr : BitVec 32} (val : BitVec 32) (fmask : BitVec 8)
    (h : crReservedZero L cr = true) : crReservedZero L (maskedWrite L cr val fmask) = true := by
  rw [crReservedZero_iff] at h ⊢
  exact fun i hi hr => (getLsbD_maskedWrite_reserved cr val fmask hr).trans (h i hi hr)

/-- Settles O14, bit by bit: a bit that stands in a field is chosen by that field's mask bits, a reserved one by
none. -/
theorem maskedWriteLaws : Obligations.MaskedWriteLaws := by
  intro L cr v v' m m' hL
  refine ⟨?_, ?_, fun hm => ?_, fun hm => ?_, ?_, crReservedZero_maskedWrite v m⟩ <;>
    refine BitVec.eq_of_getLsbD_eq fun i hi => ?_ <;>
    simp only [getLsbD_maskedWrite L _ _ _ i hi] <;>
    rcases any_maskSelects_cases hL i with ⟨f, hf⟩ | hf <;>
    simp only [hf, Bool.false_eq_true, if_false]
  · cases m.getLsbD f.index <;> simp
  · cases h : m.getLsbD f.index <;> cases h' : m'.getLsbD f.index <;> simp [h, h']
  · have hbit : (m.getLsbD f.index && m'.getLsbD f.index) = false := by
      rw [← BitVec.getLsbD_and, hm, BitVec.getLsbD_zero]
    cases h : m.getLsbD f.index <;> cases h' : m'.getLsbD f.index <;> simp_all
  · have hbit : (m.getLsbD f.index && m'.getLsbD f.index) = m.getLsbD f.index := by rw [← BitVec.getLsbD_and, hm]
    cases h : m.getLsbD f.index <;> cases h' : m'.getLsbD f.index <;> simp_all
  · simp

/-! Views. -/

theorem ofNat_get {n : Nat} (w : BitVec n) (pos width : Nat) :
    BitVec.ofNat width (get w ⟨pos, width⟩) = w.extractLsb' pos width := by
  refine BitVec.eq_of_getLsbD_eq fun i hi => ?_
  rw [BitVec.getLsbD_ofNat, testBit_get, BitVec.getLsbD_extractLsb']
  simp [hi]

theorem get_bit {n : Nat} (w : BitVec n) (pos : Nat) : get w ⟨pos, 1⟩ = (w.getLsbD pos).toNat := by
  rw [BitVec.getLsbD, Nat.toNat_testBit, get, bits, Nat.shiftRight_eq_div_pow, pow_one]

theorem get_bit_beq {n : Nat} (w : BitVec n) (pos : Nat) : (get w ⟨pos, 1⟩ == 1) = w.getLsbD pos := by
  rw [get_bit]
  cases w.getLsbD pos <;> rfl

/-- Settles O28: the reference layout gives each named field its place. -/
theorem referenceViews : Obligations.ReferenceViews := by
  refine ⟨fun ctrl => ?_, fun n => rfl⟩
  simp only [controlView, Layout.crField, Layout.reference, get_bit_beq, ofNat_get]

/-! The reset value. -/

/-- The field covers bit `i` of the register. -/
def covers (L : Layout) (i : Nat) (f : ControlField) : Bool :=
  decide ((L.crField f).pos ≤ i) && decide (i < (L.crField f).pos + (L.crField f).width)

/-- The three reset fields (R33). -/
def resetFields : List ControlField := [.einRst, .einbRst, .eoutRst]

theorem getLsbD_crReset (L : Layout) {i : Nat} (hi : i < 32) :
    (crReset L).getLsbD i = resetFields.any (covers L i) := by
  have hff : ∀ p, (0xFF#32 <<< p).getLsbD i = (decide (p ≤ i) && decide (i < p + 8)) := fun p => by
    have h255 : ∀ j, (0xFF#32).getLsbD j = decide (j < 8) := fun j => by
      rw [show 0xFF#32 = BitVec.ofNat 32 (2 ^ 8 - 1) from rfl, BitVec.getLsbD_ofNat, Nat.testBit_two_pow_sub_one]
      simp
      omega
    rw [BitVec.getLsbD_shiftLeft, h255, Bool.eq_iff_iff]
    simp only [hi, decide_true, Bool.true_and, Bool.and_eq_true, Bool.not_eq_true', decide_eq_false_iff_not,
      decide_eq_true_eq]
    omega
  rw [crReset, BitVec.getLsbD_or, BitVec.getLsbD_or, hff, hff, hff]
  simp only [resetFields, List.any_cons, List.any_nil, Bool.or_false, Bool.or_assoc]
  rfl

/-- A bit of one field stands in no other (R10 (b)). -/
theorem covers_field {L : Layout} (hL : L.wf = true) (f g : ControlField) {i : Nat} (hi : i < (L.crField f).width) :
    covers L ((L.crField f).pos + i) g = decide (g = f) := by
  by_cases h : g = f
  · subst h
    simp [covers, hi]
  · have hd := crField_disjoint hL h
    simp only [Field.disjoint, Bool.or_eq_true, decide_eq_true_eq] at hd
    simp only [h, decide_false, covers, Bool.and_eq_false_iff, decide_eq_false_iff_not]
    omega

/-- The reset fields are all ones after reset, every other field is 0 (R33). -/
theorem get_crReset {L : Layout} (hL : L.wf = true) (f : ControlField) :
    get (crReset L) (L.crField f) = if f ∈ resetFields then 0xFF else 0 := by
  have hin := crField_inside hL f
  have hall : ∀ i, (get (crReset L) (L.crField f)).testBit i =
      (decide (i < (L.crField f).width) && decide (f ∈ resetFields)) := fun i => by
    by_cases hi : i < (L.crField f).width
    · rw [testBit_get, getLsbD_crReset L (by omega)]
      simp only [resetFields, List.any_cons, List.any_nil, covers_field hL f _ hi]
      cases f <;> simp
    · simp [testBit_get, hi]
  apply Nat.eq_of_testBit_eq
  intro i
  rw [hall]
  by_cases hf : f ∈ resetFields
  · have hw : (L.crField f).width = 8 := by cases f <;> simp_all [resetFields, Layout.crField]
    rw [if_pos hf, hw, show 0xFF = 2 ^ 8 - 1 from rfl, Nat.testBit_two_pow_sub_one]
    simp [hf]
  · simp [hf]

theorem crReservedZero_crReset (L : Layout) : crReservedZero L (crReset L) = true := by
  rw [crReservedZero_iff]
  intro i hi hr
  rw [getLsbD_crReset L hi, List.any_eq_false]
  intro f _
  have := List.all_eq_true.1 hr f (mem_controlFields f)
  simp only [Bool.not_eq_true'] at this
  rw [covers, this]
  exact Bool.false_ne_true

/-- Settles O53: the layout keeps the fields apart, so the three masks fill exactly the three reset fields. -/
theorem resetControlRegister : Obligations.ResetControlRegister := by
  refine ⟨fun L hL => ⟨fun f hf => ?_, fun f hf => ?_, crReservedZero_crReset L, rfl⟩, by decide, by decide⟩
  · exact (get_crReset hL f).trans (if_pos hf)
  · have hno : ∀ f ∈ [ControlField.anaclkEn, .anaclkhiEn, .pramEn, .errOutEn, .earlydebug], f ∉ resetFields := by decide
    exact (get_crReset hL f).trans (if_neg (hno f hf))

/-- What the control register shows after reset (R168, R331). -/
theorem controlView_crReset {L : Layout} (hL : L.wf = true) :
    controlView L (crReset L) = ⟨false, false, false, false, false, 0xFF#8, 0xFF#8, 0xFF#8⟩ := by
  simp [controlView, get_crReset hL, resetFields]

/-- Settles O55: the answer's word holds the reset value and the revision in view 0's fields, and its decoding reads
them there. -/
theorem statusAfterReset : Obligations.StatusAfterReset := by
  intro s t k hL hp hrev hreset
  cases hreset
  have hchip : (s.resetStep.chip k).present = true := by
    rw [State.resetStep_chip]
    exact hp
  obtain ⟨-, hctrl, hr⟩ := read_statusControl hL k (crReset s.layout) (s.chip k).revision rfl
  rw [exec_statusRead0, onDevice_present _ _ _ hchip]
  refine ⟨_, encode s.layout (.statusResp0 k (crReset s.layout) (s.chip k).revision), rfl, ?_, ?_⟩
  · rw [State.respond_toRequester, State.resetStep_chip]
    rfl
  · simp only [decodeStatus, encode, Instr.fields]
    rw [if_neg (by decide)]
    simp [decodeView, hctrl, hr, controlView_crReset hL, Field.reduce, Nat.mod_eq_of_lt hrev]

/-! The idle sequence (43_param_ram R198). -/

theorem runInstrs_pair {i j : Instr} {s t u : State} (hi : exec i s = .next t) (hj : exec j t = .next u) :
    runInstrs [i, j] s = .next u := by
  simp [runInstrs, hi, hj]

/-- Settles O60: each half sets its own part of what the idle FSM needs and leaves the other half's. -/
theorem idleInEitherOrder : Obligations.IdleInEitherOrder := by
  intro s k val fmask hL hp hm hv
  have hidle : get (maskedWrite s.layout (s.chip k).cr val fmask) (s.layout.crField .pramEn) = 0 := by
    rw [get_maskedWrite hL, if_pos hm, hv]
  obtain ⟨t, ht, ⟨hst, -⟩, htk⟩ := stores_of_present (f := fun c =>
    .next (s.setChip k { c with cr := maskedWrite s.layout c.cr val fmask })) hp rfl
  obtain ⟨u, hu, ⟨hsu, -⟩, huk⟩ := stores_of_present (f := fun c =>
    .next (s.setChip k { c with pcount := ⟨0, true⟩ })) hp rfl
  have hlayout : t.layout = s.layout ∧ u.layout = s.layout := by
    rw [hst, hsu]
    exact ⟨rfl, rfl⟩
  obtain ⟨t', ht', -, ht'k⟩ := stores_of_present (s := t) (k := k) (f := fun c =>
    .next (t.setChip k { c with pcount := ⟨0, true⟩ })) (by rw [htk]; exact hp) rfl
  obtain ⟨u', hu', -, hu'k⟩ := stores_of_present (s := u) (k := k) (f := fun c =>
    .next (u.setChip k { c with cr := maskedWrite u.layout c.cr val fmask })) (by rw [huk]; exact hp) rfl
  refine ⟨⟨t', runInstrs_pair ht ht', ?_⟩, ⟨u', runInstrs_pair hu hu', ?_⟩⟩
  · rw [ht'k, htk]
    simp [Chip.fsmIdle, hidle]
  · rw [hu'k, huk, hlayout.2]
    simp [Chip.fsmIdle, hidle]

end Sys2Proof.Machine
end


section
/-! The encode face (41_packet_framer R149): the checks of a request, and, said once for every request that sends, which
word it sends, what is logged and what the tracker takes. -/

namespace Sys2Proof.Machine

/-! Checks. -/

/-- A chip id of the encode face passes the check (R142). -/
theorem withChipId_reqId (r : ReqId) (s : State) (f : ReqId → Host.Outcome State Fault Refusal) :
    withChipId r.val s f = f r :=
  dif_pos r.isLt

/-- Settles O35: the address is tested before anything is issued. -/
theorem paramAddressesValidated : Obligations.ParamAddressesValidated := by
  intro s c a p1 p2 p3 hc ha
  have hbad := paramAddressOk_of_ge ha
  have hid := fun f => withChipId_reqId ⟨c, by omega⟩ s f
  constructor
  · rw [runRequest, requestWriteParam, hid, if_neg hbad, State.raise]
  · rw [runRequest, requestReadParam, hid, if_neg hbad, State.raise]

/-- Settles O36: each test is the first that fails. -/
theorem selectorAndDelayValidated : Obligations.SelectorAndDelayValidated := by
  refine fun s c => ⟨fun n hc hn => ?_, fun n w hn => ?_, fun l v hl => ?_, fun l v hl hv => ?_, fun l v hl hv hc => ?_⟩
  · rw [runRequest, requestStatusRead, withChipId_reqId ⟨c, by omega⟩, if_pos hn, State.raise]
  · rw [runRequest, decodeStatus, if_pos hn]
    rfl
  · rw [runRequest, requestSetDelay, if_pos hl, State.raise]
  · rw [runRequest, requestSetDelay, if_neg (Nat.not_le.2 hl), if_pos hv, State.raise]
  · rw [runRequest, requestSetDelay_of_operands c s hl hv, withChipId_of_gt s _ hc, State.raise]

theorem lt_of_paramAddressOk {L : Layout} {a : Nat} (h : paramAddressOk L a = true) : a < L.prTotal :=
  of_decide_eq_true h

/-! What a request sends. -/

/-- The inserts of the word that a request sends, and none for a request that sends no word. -/
def requestFields (L : Layout) : Request → List (Field × Nat)
  | .buildControlWrite c m => ctrlWriteFields L c (controlValue L m).toNat (controlMask m).toNat
  | .buildStatusRead c selector => statusReadFields L c selector
  | .writeParam c a p1 p2 p3 => prEntryFields L c 0 a p1 p2 p3
  | .readParam c a => prReadFields L c a
  | .writePeriod c cycles => prPeriodFields L c cycles
  | .writeLookupEntry c index time boost rep step => prLutFields L c index time boost rep step
  | .writeParamCount c n => prCountFields L c n
  | .packEvents c es => eventFields L c es
  | .setDelay line value c => delayFields L c line value
  | .synapse c op row col data =>
    scFields L c op.isRead.toNat op.sub.code (L.scRow.reduce (scOperands op row col data).1)
      (L.scCol.reduce (scOperands op row col data).2.1) (L.scData.reduce (scOperands op row col data).2.2)
  | .misc c cmd rwb ci => rawCommandFields c rwb.toNat (cmd.code L) ci
  | _ => []

/-- The truncations that a request logs before it comes to the inserts of its word: those of operands that it reduces
itself (R157, R248). -/
def requestLog (L : Layout) : Request → List Overflow
  | .buildControlWrite _ m => controlOverflows L m
  | .synapse _ op row col data =>
    overflows [(L.scRow, (scOperands op row col data).1), (L.scCol, (scOperands op row col data).2.1),
      (L.scData, (scOperands op row col data).2.2)]
  | _ => []

/-- The request is one that sends a word, and the operands that it validates are good (R142, R160, R183, R213, R234). -/
def RequestChecked (L : Layout) : Request → Prop
  | .buildStatusRead _ selector => selector ≤ 3
  | .writeParam _ a _ _ _ => a < L.prTotal
  | .readParam _ a => a < L.prTotal
  | .packEvents _ es => es.length ≤ 3 ∧ msbAgree es = true
  | .setDelay line value _ => line < 36 ∧ value < 8
  | .extract _ _ _ => False
  | .insert _ _ _ _ => False
  | .classify _ => False
  | .classifyCommand _ => False
  | .build _ _ _ => False
  | .buildCommand _ _ _ _ => False
  | .decodeStatus _ _ => False
  | .unpackEvents _ => False
  | _ => True

/-- The change of the tracker at issue leaves the reads alone (R149). -/
def KeepsReads (update : Tracker → Tracker) : Prop :=
  ∀ u, (update u).pending = u.pending ∧ (update u).batch = u.batch ∧ (update u).readsSent = u.readsSent ∧
    (update u).answers = u.answers

/-- It gives a legal row state where the one before is legal (R261). -/
def KeepsRowLegal (L : Layout) (u : Tracker) (update : Tracker → Tracker) : Prop :=
  u.row.inv L = true → (update u).row.inv L = true

/-- The request has come to the issue of its word for chip id `c`. -/
def SentFor (r : Request) (c : ReqId) (s t : State) : Prop :=
  r.target = some c.val ∧ RequestChecked s.layout r ∧ ∃ update, KeepsReads update ∧
    KeepsRowLegal s.layout (s.tracker c) update ∧
    issue c r.addressMode (requestFields s.layout r) r.reads update (s.logOverflows (requestLog s.layout r)) = .next t

theorem keepsReads_id : KeepsReads id := fun _ => ⟨rfl, rfl, rfl, rfl⟩

theorem keepsReads_afterControl (m : ControlMap) : KeepsReads (Tracker.afterControl m) := by
  intro u
  unfold Tracker.afterControl
  split <;> exact ⟨rfl, rfl, rfl, rfl⟩

theorem keepsRowLegal_afterControl (L : Layout) (u : Tracker) (m : ControlMap) :
    KeepsRowLegal L u (Tracker.afterControl m) := by
  intro h
  unfold Tracker.afterControl
  split <;> exact h

/-- The transition table gives legal row states only: the asked row is reduced to the row field (R248). -/
theorem rowTable_inv {L : Layout} {sub : ScSub} {r : Nat} {row next : RowState}
    (h : rowTable sub (L.scRow.reduce r) row = .to next) (hrow : row.inv L = true) : next.inv L = true := by
  have hfits := Field.reduce_fits L.scRow r
  unfold rowTable at h
  split at h
  case h_3 | h_4 =>
    split at h <;> cases h
    exact hrow
  all_goals cases h
  all_goals simp_all [RowState.inv]

/-- The common procedure of a synapse-control request, its operands taken apart (R248). -/
theorem runRequest_synapse (r : ReqId) (op : ScOp) (row col data : Nat) (s : State) :
    runRequest (.synapse r.val op row col data) s =
      if (s.tracker r).poison then .refused .poisoned
      else
        match rowTable op.sub (s.layout.scRow.reduce (scOperands op row col data).1) (s.tracker r).row with
        | .conflict openRow =>
          .next ((s.logOverflows (requestLog s.layout (.synapse r.val op row col data))).raise (some r.val)
            (.rowConflict openRow (s.layout.scRow.reduce (scOperands op row col data).1)))
        | .undrawn => .refused .unspecifiedTransition
        | .to next =>
          issue r false (requestFields s.layout (.synapse r.val op row col data))
            (if op.isRead then some (.synram op.sub) else none) (fun t => { t with row := next })
            (s.logOverflows (requestLog s.layout (.synapse r.val op row col data))) := by
  rw [runRequest, requestSynapse, withChipId_reqId]
  rfl

theorem synapse_reads (c : Nat) (op : ScOp) (row col data : Nat) :
    (Request.synapse c op row col data).reads = if op.isRead then some (.synram op.sub) else none := by
  cases op <;> rfl

theorem misc_reads (c : Nat) (cmd : MiscCmd) (rwb : Bool) (ci : Nat) :
    (Request.misc c cmd rwb ci).reads = if rwb then some (.misc cmd) else none := by
  cases rwb <;> rfl

/-- Everything a request can do: it returns without sending, or it issues its own word for its own chip id. -/
theorem runRequest_sent {r : Request} {s t : State} (h : runRequest r s = .next t) :
    ReportedOnly s t ∨ ∃ c, SentFor r c s t := by
  have h0 := s.logOverflows_nil
  cases r with
  | extract | insert | build | buildCommand | decodeStatus => exact .inl (finishCodec_next h)
  | classify | classifyCommand | unpackEvents =>
    cases h
    exact .inl (reportedOnly_result s _ _)
  | buildControlWrite c m =>
    simp only [runRequest, requestControlWrite] at h
    refine (withChipId_next h).imp_right fun ⟨hc, h⟩ => ⟨⟨c, hc⟩, rfl, trivial, _, keepsReads_afterControl m,
      keepsRowLegal_afterControl _ _ m, h⟩
  | buildStatusRead c n =>
    simp only [runRequest, requestStatusRead] at h
    rcases withChipId_next h with h | ⟨hc, h⟩
    · exact .inl h
    · split at h
      · cases h
        exact .inl (reportedOnly_raise _ _ _)
      · next hn => exact .inr ⟨⟨c, hc⟩, rfl, Nat.not_lt.1 hn, id, keepsReads_id, fun h => h, h0.symm ▸ h⟩
  | writeParam c a =>
    simp only [runRequest, requestWriteParam] at h
    rcases withChipId_next h with h | ⟨hc, h⟩
    · exact .inl h
    · split at h
      · next ha => exact .inr ⟨⟨c, hc⟩, rfl, lt_of_paramAddressOk ha, id, keepsReads_id, fun h => h, h0.symm ▸ h⟩
      · cases h
        exact .inl (reportedOnly_raise _ _ _)
  | readParam c a =>
    simp only [runRequest, requestReadParam] at h
    rcases withChipId_next h with h | ⟨hc, h⟩
    · exact .inl h
    · split at h
      · next ha => exact .inr ⟨⟨c, hc⟩, rfl, lt_of_paramAddressOk ha, id, keepsReads_id, fun h => h, h0.symm ▸ h⟩
      · cases h
        exact .inl (reportedOnly_raise _ _ _)
  | writePeriod c n =>
    simp only [runRequest, requestWritePeriod] at h
    exact (withChipId_next h).imp_right fun ⟨hc, h⟩ =>
      ⟨⟨c, hc⟩, rfl, trivial, id, keepsReads_id, fun h => h, h0.symm ▸ h⟩
  | writeLookupEntry c =>
    simp only [runRequest, requestWriteLookup] at h
    exact (withChipId_next h).imp_right fun ⟨hc, h⟩ =>
      ⟨⟨c, hc⟩, rfl, trivial, id, keepsReads_id, fun h => h, h0.symm ▸ h⟩
  | writeParamCount c n =>
    simp only [runRequest, requestWriteCount] at h
    exact (withChipId_next h).imp_right fun ⟨hc, h⟩ =>
      ⟨⟨c, hc⟩, rfl, trivial, id, keepsReads_id, fun h => h, h0.symm ▸ h⟩
  | packEvents c es =>
    simp only [runRequest, requestPackEvents] at h
    rcases withChipId_next h with h | ⟨hc, h⟩
    · exact .inl h
    · split at h
      · cases h
      · next hlen =>
        split at h
        · next hmsb => exact .inr ⟨⟨c, hc⟩, rfl, ⟨Nat.not_lt.1 hlen, hmsb⟩, id, keepsReads_id, fun h => h, h0.symm ▸ h⟩
        · cases h
  | setDelay l v c =>
    simp only [runRequest, requestSetDelay] at h
    split at h
    · cases h
      exact .inl (reportedOnly_raise _ _ _)
    · next hl =>
      split at h
      · cases h
        exact .inl (reportedOnly_raise _ _ _)
      · next hv =>
        exact (withChipId_next h).imp_right fun ⟨hc, h⟩ =>
          ⟨⟨c, hc⟩, rfl, ⟨Nat.not_le.1 hl, Nat.not_le.1 hv⟩, id, keepsReads_id, fun h => h, h0.symm ▸ h⟩
  | synapse c op row col data =>
    rcases withChipId_next (show requestSynapse c op row col data s = .next t from h) with hrep | ⟨hc, -⟩
    · exact .inl hrep
    · rw [runRequest_synapse ⟨c, hc⟩ op row col data s] at h
      split at h
      · cases h
      · split at h
        · cases h
          exact .inl (reportedOnly_report _ _ _ _)
        · cases h
        · next next hnext =>
          rw [← synapse_reads c op row col data] at h
          exact .inr ⟨⟨c, hc⟩, rfl, trivial, fun t => { t with row := next }, fun _ => ⟨rfl, rfl, rfl, rfl⟩,
            rowTable_inv hnext, h⟩
  | misc c cmd rwb ci =>
    simp only [runRequest, requestMisc] at h
    rw [← misc_reads c cmd rwb ci] at h
    exact (withChipId_next h).imp_right fun ⟨hc, h⟩ =>
      ⟨⟨c, hc⟩, rfl, trivial, id, keepsReads_id, fun h => h, h0.symm ▸ h⟩

/-- What the sending of a word does (R149): the word goes out, its truncations are logged, `PENDING` of its chip gains
the read; nothing else changes but that chip's tracker and the results. -/
structure SendEffect (r : Request) (c : ReqId) (s t : State) : Prop where
  target : r.target = some c.val
  checked : RequestChecked s.layout r
  mode : s.addrMode = r.addressMode
  free : (s.tracker c).pending = []
  toDevice : t.toDevice = s.toDevice ++ [assemble (requestFields s.layout r)]
  overflowLog : t.overflowLog = s.overflowLog ++ (requestLog s.layout r ++ overflows (requestFields s.layout r))
  pending : (t.tracker c).pending = r.reads.toList
  readsSent : (t.tracker c).readsSent = (s.tracker c).readsSent + r.reads.toList.length
  batch : (t.tracker c).batch = (s.tracker c).batch
  answers : (t.tracker c).answers = (s.tracker c).answers
  row : (s.tracker c).row.inv s.layout = true → (t.tracker c).row.inv s.layout = true
  trackers : ∀ j, j ≠ c → t.tracker j = s.tracker j
  frame : t.layout = s.layout ∧ t.chips = s.chips ∧ t.addrMode = s.addrMode ∧ t.toRequester = s.toRequester ∧
    t.draws = s.draws ∧ t.scripts = s.scripts

theorem SentFor.effect {r : Request} {c : ReqId} {s t : State} (h : SentFor r c s t) : SendEffect r c s t := by
  obtain ⟨htarget, hchecked, update, hkeeps, hrow, hissue⟩ := h
  obtain ⟨hmode, hfree, ⟨kind, hread, rfl⟩ | ⟨hread, rfl⟩⟩ := issue_next hissue <;>
    obtain ⟨hpending, hbatch, hsent, hanswers⟩ := hkeeps (s.tracker c)
  · exact {
      target := htarget, checked := hchecked, mode := hmode, free := hfree, toDevice := rfl
      overflowLog := List.append_assoc _ _ _
      pending := by simpa [hread, hpending] using hfree
      readsSent := by simp [hread, hsent]
      batch := by simp [hbatch]
      answers := by simp [hanswers]
      row := by simpa [KeepsRowLegal] using hrow
      trackers := fun j hj => State.setTracker_tracker_ne _ c j _ hj
      frame := ⟨rfl, rfl, rfl, rfl, rfl, rfl⟩ }
  · exact {
      target := htarget, checked := hchecked, mode := hmode, free := hfree, toDevice := rfl
      overflowLog := List.append_assoc _ _ _
      pending := by simpa [hread, hpending] using hfree
      readsSent := by simp [hread, hsent]
      batch := by simp [hbatch]
      answers := by simp [hanswers]
      row := by simpa [KeepsRowLegal] using hrow
      trackers := fun j hj => State.setTracker_tracker_ne _ c j _ hj
      frame := ⟨rfl, rfl, rfl, rfl, rfl, rfl⟩ }

theorem ReportedOnly.toDevice {s t : State} (h : ReportedOnly s t) : t.toDevice = s.toDevice := by
  obtain ⟨_, _, _, rfl⟩ := h
  rfl

/-- A request whose word is sent (R149). -/
theorem sendEffect_of_sent {r : Request} {s t : State} (h : runRequest r s = .next t) (hs : t.toDevice ≠ s.toDevice) :
    ∃ c, SendEffect r c s t := by
  rcases runRequest_sent h with hrep | ⟨c, hc⟩
  · exact absurd hrep.toDevice hs
  · exact ⟨c, hc.effect⟩

/-- The word carries the chip id that the request names (R141). -/
theorem get_requestFields_chipid {L : Layout} (hL : L.wf = true) {r : Request} {c : Nat} (hc : r.target = some c)
    (hr : RequestChecked L r) : get (assemble (requestFields L r)) Field.chipid = c % 2 ^ 4 := by
  have command {rwb cmd : Nat} {rest : List (Field × Nat)} (hf : fieldsOk 11 64 (rest.map (·.1)) = true) :
      get (assemble (commandFields c rwb cmd ++ rest)) Field.chipid = c % 2 ^ 4 :=
    get_command_mem hf (by simp [commandFields])
  cases r with
  | extract | insert | classify | classifyCommand | build | buildCommand | decodeStatus | unpackEvents => exact hr.elim
  | packEvents _ es => cases hc; exact get_eventFields_chipid L c es
  | setDelay line value => cases hc; exact (read_delay hL c line value rfl).1
  | buildControlWrite => cases hc; exact command (Layout.wf_ctrlWrite hL)
  | buildStatusRead => cases hc; exact command (fieldsOk_sublist (gs := [L.crSel]) (Layout.wf_status0 hL) (by simp))
  | writeParam => cases hc; exact command (Layout.wf_prEntry hL)
  | readParam => cases hc; exact command (fieldsOk_sublist (gs := [L.prSub, L.prAdr]) (Layout.wf_prEntry hL) (by simp))
  | writePeriod => cases hc; exact command (Layout.wf_prPeriod hL)
  | writeLookupEntry => cases hc; exact command (Layout.wf_prLut hL)
  | writeParamCount => cases hc; exact command (Layout.wf_prCount hL)
  | synapse => cases hc; exact command (Layout.wf_sc hL)
  | misc => cases hc; exact command (rest := [(Field.ci, _)]) rfl

/-- Settles O39: a request returns without sending, or its word is issued for the chip id it names. -/
theorem requestSendsAtMostOneWord : Obligations.RequestSendsAtMostOneWord := by
  intro r s t hL h
  rcases runRequest_sent h with ⟨_, _, _, rfl⟩ | ⟨c, hsent⟩
  · exact ⟨rfl, rfl, rfl, rfl, .inl ⟨rfl, rfl⟩⟩
  · have he := hsent.effect
    obtain ⟨-, hchips, hmode, hreq, hdraws, -⟩ := he.frame
    refine ⟨hchips, hmode, hreq, hdraws, .inr ⟨_, c, he.target, he.toDevice, ?_, he.mode, he.free, ?_, he.trackers⟩⟩
    · exact (get_requestFields_chipid hL he.target he.checked).trans (Nat.mod_eq_of_lt c.isLt)
    · rw [he.pending]
      cases r.reads <;> simp

/-! The overflow log (10_state R49). -/

theorem overflowOf_of_lt {f : Field} {v : Nat} (h : v < 2 ^ f.width) : overflowOf f v = [] :=
  if_neg (Nat.not_le.2 h)

@[simp] theorem overflowOf_reduce (f : Field) (v : Nat) : overflowOf f (f.reduce v) = [] :=
  overflowOf_of_lt (Nat.mod_lt _ (Nat.two_pow_pos _))

@[simp] theorem overflowOf_zero (f : Field) : overflowOf f 0 = [] := overflowOf_of_lt (Nat.two_pow_pos _)

@[simp] theorem overflows_nil : overflows [] = [] := rfl

@[simp] theorem overflows_cons (p : Field × Nat) (fs : List (Field × Nat)) :
    overflows (p :: fs) = overflowOf p.1 p.2 ++ overflows fs := rfl

@[simp] theorem overflows_append (fs gs : List (Field × Nat)) : overflows (fs ++ gs) = overflows fs ++ overflows gs :=
  List.flatMap_append

/-- The header of a command word truncates nothing (R92). -/
theorem overflows_command {c rwb cmd : Nat} (hc : c < 16) (hr : rwb < 2) (hcmd : cmd < 16) (rest : List (Field × Nat)) :
    overflows (commandFields c rwb cmd ++ rest) = overflows rest := by
  rw [overflows_append, commandFields, overflows_cons, overflows_cons, overflows_cons, overflows_cons,
    overflowOf_zero, overflowOf_of_lt (f := Field.chipid) hc, overflowOf_of_lt (f := Field.cmdrwb) hr,
    overflowOf_of_lt (f := Field.cmd) hcmd]
  rfl

/-- A record's inserts truncate its bin and its address only (R215). -/
theorem overflows_recordFields {L : Layout} (hp : L.evValidPolarity ≤ 1) (k : Nat) (o : Option EventRequest) :
    overflows (recordFields L k o) = recordTruncations k o := by
  have hv : ∀ v, v ≤ 1 → overflowOf (Field.evValid k) v = [] := fun v h =>
    overflowOf_of_lt (by simp only [pow_one]; omega)
  have hinvalid : overflows [(Field.evValid k, 1 - L.evValidPolarity)] = [] := by
    rw [overflows_cons, hv _ (Nat.sub_le _ _)]
    rfl
  cases o with
  | none => exact hinvalid
  | some e =>
    cases he : e.valid with
    | false => simp [recordFields, recordTruncations, he, hinvalid]
    | true =>
      have hl : overflowOf (Field.evTlsb k) (recordLsb e).toNat = [] := overflowOf_of_lt (BitVec.isLt _)
      simp [recordFields, recordTruncations, he, slotFields, hv _ hp, hl]

/-- What a request logs is one entry for each operand too wide for its field (R123, R292). -/
theorem request_log {L : Layout} (hL : L.wf = true) {r : Request} {c : ReqId} (hc : r.target = some c.val)
    (hr : RequestChecked L r) : requestLog L r ++ overflows (requestFields L r) = r.truncations L := by
  have hpram := Layout.wf_code_lt hL L.cmdParamram_mem
  have hcontrol := Layout.wf_code_lt hL L.cmdControl_mem
  have hsyn := Layout.wf_code_lt hL L.cmdSynram_mem
  obtain ⟨hsub, -, hadr, -, -⟩ := Layout.wf_prNumbers hL
  have hpsub : ∀ v < 4, overflowOf L.prSub v = [] := fun v hv => overflowOf_of_lt (by rw [hsub]; exact hv)
  cases r with
  | extract | insert | classify | classifyCommand | build | buildCommand | decodeStatus | unpackEvents => exact hr.elim
  | buildControlWrite _ m =>
    cases hc
    have hval : overflowOf L.crVal (controlValue L m).toNat = [] := overflowOf_of_lt (BitVec.isLt _)
    have hmask : overflowOf L.crFmask (controlMask m).toNat = [] :=
      overflowOf_of_lt (by rw [Layout.wf_fmask hL]; exact BitVec.isLt _)
    rw [requestFields, ctrlWriteFields, overflows_command c.isLt (by decide) hcontrol]
    simp [hval, hmask, requestLog, Request.truncations]
  | buildStatusRead _ selector =>
    cases hc
    have hs : overflowOf L.crSel selector = [] := overflowOf_of_lt (show selector < 4 from Nat.lt_succ_of_le hr)
    rw [requestFields, statusReadFields, overflows_command c.isLt (by decide) hcontrol]
    simp [hs, requestLog, Request.truncations]
  | writeParam _ a p1 p2 p3 =>
    cases hc
    have ha : overflowOf L.prAdr a = [] := overflowOf_of_lt (Nat.lt_of_lt_of_le hr hadr)
    rw [requestFields, prEntryFields, overflows_command c.isLt (by decide) hpram]
    simp [ha, requestLog, Request.truncations]
  | readParam _ a =>
    cases hc
    have ha : overflowOf L.prAdr a = [] := overflowOf_of_lt (Nat.lt_of_lt_of_le hr hadr)
    rw [requestFields, prReadFields, overflows_command c.isLt (by decide) hpram]
    simp [ha, requestLog, Request.truncations]
  | writePeriod =>
    cases hc
    rw [requestFields, prPeriodFields, overflows_command c.isLt (by decide) hpram]
    simp [hpsub, requestLog, Request.truncations]
  | writeLookupEntry =>
    cases hc
    rw [requestFields, prLutFields, overflows_command c.isLt (by decide) hpram]
    simp [hpsub, requestLog, Request.truncations]
  | writeParamCount =>
    cases hc
    rw [requestFields, prCountFields, overflows_command c.isLt (by decide) hpram]
    simp [hpsub, requestLog, Request.truncations]
  | packEvents _ es =>
    cases hc
    have hmsb : overflowOf Field.evTmsb (sharedMsb es).toNat = [] := overflowOf_of_lt (BitVec.isLt _)
    have hid : overflowOf Field.chipid c.val = [] := overflowOf_of_lt c.isLt
    have hev : overflowOf Field.eventp 1 = [] := rfl
    simp [requestFields, eventFields, overflows_recordFields (Layout.wf_polarity hL), hmsb, hid, hev, requestLog,
      Request.truncations]
  | setDelay line value =>
    cases hc
    have hid : overflowOf Field.chipid c.val = [] := overflowOf_of_lt c.isLt
    have hline : overflowOf L.dlAdr line = [] := overflowOf_of_lt (Nat.lt_of_lt_of_le hr.1 (Layout.wf_lines hL))
    have hvalue : overflowOf L.dlVal value = [] := overflowOf_of_lt hr.2
    simp [requestFields, delayFields, hid, hline, hvalue, requestLog, Request.truncations]
  | synapse _ op row col data =>
    cases hc
    have hs : overflowOf L.scSub op.sub.code = [] :=
      overflowOf_of_lt (by rw [(Layout.wf_scNumbers hL).1]; cases op <;> decide)
    rw [requestFields, scFields, overflows_command c.isLt (by cases op <;> decide) hsyn]
    cases op <;> simp [hs, requestLog, scOperands, Request.truncations]
  | misc _ cmd rwb ci =>
    cases hc
    rw [requestFields, rawCommandFields, overflows_command c.isLt (by cases rwb <;> decide)
      (Layout.wf_code_lt hL (L.miscCode_mem cmd))]
    simp [requestLog, Request.truncations]

end Sys2Proof.Machine
end


section
/-! The words of the requests at the device's decoder (30_encoding R105, R123): a word is the encoding of the
instruction that the request stands for, its operands reduced, so the decoders' round trips read it. -/

namespace Sys2Proof

theorem putBits_mod {n : Nat} (w : BitVec n) (pos width value : Nat) :
    putBits w pos width (value % 2 ^ width) = putBits w pos width value := by
  rw [putBits, putBits, Nat.mod_mod]

/-- The inserts reduce every value to its field's width (R131). -/
theorem assemble_reduce (fs : List (Field × Nat)) :
    assemble (fs.map fun p => (p.1, p.1.reduce p.2)) = assemble fs := by
  rw [assemble, assemble, List.foldl_map]
  congr 1
  funext w p
  exact putBits_mod w _ _ _

/-- Inserts of the same fields with values that agree modulo the widths build the same word. -/
theorem assemble_congr {fs gs : List (Field × Nat)}
    (h : fs.map (fun p => (p.1, p.1.reduce p.2)) = gs.map fun p => (p.1, p.1.reduce p.2)) :
    assemble fs = assemble gs := by
  rw [← assemble_reduce fs, h, assemble_reduce]

@[simp] theorem Field.reduce_reduce (f : Field) (n : Nat) : f.reduce (f.reduce n) = f.reduce n := Nat.mod_mod _ _

@[simp] theorem Field.reduce_zero (f : Field) : f.reduce 0 = 0 := Nat.zero_mod _

end Sys2Proof

namespace Sys2Proof.Machine

/-- What the device reads from the word of a request for a device's chip id: the instruction that the request stands
for, its address naming an element. -/
theorem decodeDevice_requestFields {L : Layout} (hL : L.wf = true) {r : Request} {k : ChipId}
    (hk : r.target = some k.val) (hr : RequestChecked L r) :
    ∃ i, r.sends L k = some i ∧ decodeDevice L r.addressMode (assemble (requestFields L r)) = .ok i ∧
      (∀ a p1 p2 p3, i = .prWrite k a p1 p2 p3 → a < L.prTotal) ∧ (∀ a, i = .prRead k a → a < L.prTotal) ∧
      (∀ a v, i = .dlSet k a v → a < 36) := by
  obtain ⟨-, -, hadr, -, -⟩ := Layout.wf_prNumbers hL
  have hfits {a : Nat} (ha : a < L.prTotal) : L.prAdr.fits a = true := decide_eq_true (Nat.lt_of_lt_of_le ha hadr)
  -- the word is the encoding of a well-formed packet request, up to the reduction of its operands
  have packet {i : Instr} {fs : List (Field × Nat)} (hfs : fs.map (fun p => (p.1, p.1.reduce p.2)) =
      (i.fields L).map fun p => (p.1, p.1.reduce p.2)) (hi : i.wf L = true) (hreq : i.isPacketRequest = true) :
      decodeDevice L false (assemble fs) = .ok i := by
    rw [assemble_congr hfs]
    exact packetRequestsRoundTrip L i hL hi hreq
  cases r with
  | extract | insert | classify | classifyCommand | build | buildCommand | decodeStatus | unpackEvents => exact hr.elim
  | buildControlWrite _ m =>
    cases hk
    exact ⟨_, rfl, packet rfl rfl rfl, by simp⟩
  | buildStatusRead _ selector =>
    cases hk
    match selector, hr with
    | 0, _ | 1, _ | 2, _ | 3, _ => exact ⟨_, rfl, packet rfl rfl rfl, by simp⟩
  | writeParam _ a p1 p2 p3 =>
    cases hk
    refine ⟨_, rfl, packet ?_ ?_ rfl, ?_, by simp, by simp⟩
    · simp [requestFields, Instr.fields, prEntryFields, commandFields]
    · simp [Instr.wf, hfits hr, Field.reduce_fits]
    · rintro _ _ _ _ ⟨⟩
      exact hr
  | readParam _ a =>
    cases hk
    refine ⟨_, rfl, packet rfl (hfits hr) rfl, by simp, ?_, by simp⟩
    rintro _ ⟨⟩
    exact hr
  | writePeriod _ cycles =>
    cases hk
    refine ⟨_, rfl, packet ?_ (Field.reduce_fits _ _) rfl, by simp⟩
    simp [requestFields, Instr.fields, prPeriodFields, commandFields]
  | writeLookupEntry _ index time boost rep step =>
    cases hk
    refine ⟨_, rfl, packet ?_ ?_ rfl, by simp⟩
    · simp [requestFields, Instr.fields, prLutFields, commandFields]
    · simp [Instr.wf, Field.reduce_fits]
  | writeParamCount _ n =>
    cases hk
    refine ⟨_, rfl, packet ?_ (Field.reduce_fits _ _) rfl, by simp⟩
    simp [requestFields, Instr.fields, prCountFields, commandFields]
  | packEvents _ es =>
    cases hk
    have hchip := (get_eventFields_chipid L k.val es).trans (Nat.mod_eq_of_lt (by omega))
    exact ⟨_, rfl, (decodeDevice_of_event L hchip (get_eventFields_eventp L _ es)).trans
      (congrArg _ (decodeEvent_eventFields L k _ es)), by simp⟩
  | setDelay line value =>
    cases hk
    refine ⟨_, rfl, ?_, by simpa using hr.1⟩
    have hword : assemble (requestFields L (.setDelay line value k.val)) =
        encode L (.dlSet k line (BitVec.ofNat 3 value)) :=
      assemble_congr (by simp [requestFields, Instr.fields, delayFields, Field.reduce])
    rw [hword]
    exact (delayWordsRoundTrip L hL).1 k line _ hr.1
  | synapse _ op row col data =>
    cases hk
    cases op <;>
      exact ⟨_, rfl, packet rfl (by simp [Instr.wf, Field.reduce_fits]) rfl, by simp⟩
  | misc _ cmd rwb ci =>
    cases hk
    have hrwb : rwb.toNat = (BitVec.ofBool rwb).toNat := by cases rwb <;> rfl
    refine ⟨cmd.instr k (BitVec.ofBool rwb) (BitVec.ofNat 53 ci), by cases cmd <;> rfl, ?_,
      by cases cmd <;> simp [MiscCmd.instr]⟩
    have hword : assemble (requestFields L (.misc k.val cmd rwb ci)) =
        assemble (rawCommandFields k (BitVec.ofBool rwb).toNat (cmd.code L) (BitVec.ofNat 53 ci).toNat) :=
      assemble_congr (by
        simp only [requestFields, rawCommandFields, commandFields, List.map_append, List.map_cons, List.map_nil,
          Field.reduce, hrwb, BitVec.toNat_ofNat, Nat.mod_mod])
    rw [hword]
    exact decodeDevice_rawCommand hL k cmd _ _

/-- Settles O40: the word sent is the request's own, and its round trip is that of the instruction it stands for. -/
theorem sentWordsHaveAMeaning : Obligations.SentWordsHaveAMeaning := by
  intro r s t w c hL hc h hw
  obtain ⟨c', he⟩ := sendEffect_of_sent h (by rw [hw]; simp)
  obtain rfl : c' = c := Fin.ext (Option.some.inj (he.target.symm.trans hc))
  obtain rfl : w = assemble (requestFields s.layout r) := by simpa [he.toDevice] using hw.symm
  refine ⟨by rw [he.pending, he.free, List.nil_append], fun h15 => ?_, fun k hk => ?_⟩
  · refine decodeDevice_of_chipid_eq _ _ ((get_requestFields_chipid hL hc he.checked).trans ?_)
    rw [h15]
    rfl
  · subst hk
    rw [he.mode]
    exact decodeDevice_requestFields hL hc he.checked

end Sys2Proof.Machine
end


section
/-! The single requests of the encode face: control writes, event words, the row state machine. -/

namespace Sys2Proof.Machine

/-- In its mode and with nothing in flight a request's word goes out (R149). -/
theorem issue_sends {r : ReqId} {address : Bool} {fields : List (Field × Nat)} {read : Option ReadKind}
    {update : Tracker → Tracker} {s : State} (hm : s.addrMode = address) (hp : (s.tracker r).pending = [])
    (hu : (update (s.tracker r)).pending = (s.tracker r).pending) :
    ∃ t, issue r address fields read update s = .next t ∧ t.toDevice = s.toDevice ++ [assemble fields] ∧
      (t.tracker r).pending = read.toList ∧ (t.tracker r).row = (update (s.tracker r)).row ∧ t.chips = s.chips ∧
      ∀ j, j ≠ r → t.tracker j = s.tracker j := by
  cases read with
  | some kind =>
    refine ⟨_, issue_read r address fields kind update s hm hp, rfl, ?_, ?_, rfl,
      fun j hj => State.setTracker_tracker_ne _ r j _ hj⟩ <;> simp [hu, hp]
  | none =>
    refine ⟨_, issue_write r address fields update s hm hp, rfl, ?_, ?_, rfl,
      fun j hj => State.setTracker_tracker_ne _ r j _ hj⟩ <;> simp [hu, hp]

/-! Control writes (42_control_status R156, R157). -/

/-- The mask has the bits of the named fields, put one after another. -/
theorem getLsbD_foldl_mask (m : ControlMap) (fs : List ControlField) (k : BitVec 8) {i : Nat} (hi : i < 8) :
    (fs.foldl (fun k f => if (m.get f).isSome then putBits k f.index 1 1 else k) k).getLsbD i =
      (k.getLsbD i || fs.any fun f => (m.get f).isSome && f.index == i) := by
  induction fs generalizing k with
  | nil => simp
  | cons f fs ih =>
    rw [List.foldl_cons, ih, List.any_cons, ← Bool.or_assoc]
    congr 1
    by_cases hf : (m.get f).isSome = true
    · rw [if_pos hf, getLsbD_putBits, hf, Bool.true_and]
      by_cases hb : f.index = i
      · simp [hi, hb]
      · have hout : ¬ (f.index ≤ i ∧ i < f.index + 1) := by omega
        simp only [if_neg hout, hi, decide_true, Bool.true_and, beq_eq_false_iff_ne.2 hb, Bool.or_false]
    · simp [hf]

theorem getLsbD_controlMask (m : ControlMap) (f : ControlField) :
    (controlMask m).getLsbD f.index = (m.get f).isSome := by
  have hi : f.index < 8 := by cases f <;> decide
  rw [controlMask, getLsbD_foldl_mask m _ _ hi]
  cases f <;> simp [ControlField.all, ControlField.index]

section Value

variable {L : Layout} (hL : L.wf = true) (m : ControlMap) (fs : List ControlField)

/-- A field that is not in the list keeps what the value word held. -/
theorem get_foldl_value_not_mem (hL : L.wf = true) (v : BitVec 32) {f : ControlField} (hf : f ∉ fs) :
    get (fs.foldl (fun v f => match m.get f with | some x => put v (L.crField f) x | none => v) v) (L.crField f) =
      get v (L.crField f) := by
  induction fs generalizing v with
  | nil => rfl
  | cons g fs ih =>
    simp only [List.mem_cons, not_or] at hf
    obtain ⟨hne, hfs⟩ := hf
    rw [List.foldl_cons, ih _ hfs]
    cases m.get g with
    | none => rfl
    | some x => exact get_put_disjoint _ _ _ _ (crField_disjoint hL (Ne.symm hne)) (crField_inside hL f)

/-- A field of the list holds its named value, reduced; one that is not named keeps what the word held. -/
theorem get_foldl_value (hL : L.wf = true) (hnd : fs.Nodup) (v : BitVec 32) {f : ControlField} (hf : f ∈ fs) :
    get (fs.foldl (fun v f => match m.get f with | some x => put v (L.crField f) x | none => v) v) (L.crField f) =
      match m.get f with
      | some x => x % 2 ^ (L.crField f).width
      | none => get v (L.crField f) := by
  induction fs generalizing v with
  | nil => simp at hf
  | cons g fs ih =>
    obtain ⟨hg, hnd⟩ := List.nodup_cons.1 hnd
    rw [List.foldl_cons]
    rcases List.mem_cons.1 hf with rfl | hf
    · rw [get_foldl_value_not_mem m fs hL _ hg]
      cases m.get f with
      | none => rfl
      | some x => exact get_put_same _ _ _ (crField_inside hL f)
    · have hne : g ≠ f := fun h => hg (h ▸ hf)
      rw [ih hnd _ hf]
      cases m.get f with
      | some x => rfl
      | none =>
        cases m.get g with
        | none => rfl
        | some x => exact get_put_disjoint _ _ _ _ (crField_disjoint hL hne) (crField_inside hL f)

/-- A reserved bit is written by no named field (R31). -/
theorem getLsbD_foldl_value_reserved (v : BitVec 32) {i : Nat} (hi : L.crReserved i = true) :
    (fs.foldl (fun v f => match m.get f with | some x => put v (L.crField f) x | none => v) v).getLsbD i =
      v.getLsbD i := by
  induction fs generalizing v with
  | nil => rfl
  | cons g fs ih =>
    rw [List.foldl_cons, ih]
    cases m.get g with
    | none => rfl
    | some x =>
      have hg := List.all_eq_true.1 hi g (mem_controlFields g)
      simp only [Bool.not_eq_true', Bool.and_eq_false_iff, decide_eq_false_iff_not] at hg
      have hout : ¬ ((L.crField g).pos ≤ i ∧ i < (L.crField g).pos + (L.crField g).width) := by omega
      simp only [getLsbD_put, if_neg hout]
      by_cases h32 : i < 32
      · simp [h32]
      · rw [BitVec.getLsbD_of_ge v i (by omega)]
        simp

end Value

/-- The value word of a control write (R103, R157): each named value in its field, 0 elsewhere. -/
theorem get_controlValue {L : Layout} (hL : L.wf = true) (m : ControlMap) (f : ControlField) :
    (∀ v, m.get f = some v → get (controlValue L m) (L.crField f) = v % 2 ^ (L.crField f).width) ∧
      (m.get f = none → get (controlValue L m) (L.crField f) = 0) := by
  have h := get_foldl_value m ControlField.all hL (by decide) 0#32 (mem_controlFields f)
  refine ⟨fun v hv => ?_, fun hn => ?_⟩
  · rw [hv] at h
    exact h
  · rw [hn] at h
    exact h.trans (get_zero _)

theorem crReservedZero_controlValue (L : Layout) (m : ControlMap) : crReservedZero L (controlValue L m) = true := by
  rw [crReservedZero_iff]
  exact fun i _ hr => (getLsbD_foldl_value_reserved m ControlField.all 0#32 hr).trans BitVec.getLsbD_zero

theorem afterControl_eq (m : ControlMap) (t : Tracker) :
    t.afterControl m = { t with
      prfsm := match m.pramEn with
        | some v => if v % 2 = 1 then .enabled else .disabled
        | none => t.prfsm } := by
  unfold Tracker.afterControl
  cases m.pramEn <;> rfl

/-- Settles O15: the word is a `CTRL.WRITE` of the map's value and mask. -/
theorem controlRequestNamesFields : Obligations.ControlRequestNamesFields := by
  intro s k m hL hmode hfree
  have hrun : runRequest (.buildControlWrite k.val m) s = issue (reqOf k) false
      (requestFields s.layout (.buildControlWrite k.val m)) none (Tracker.afterControl m)
      (s.logOverflows (controlOverflows s.layout m)) := by
    rw [runRequest, requestControlWrite]
    exact withChipId_reqId (reqOf k) s _
  rw [hrun, issue_write _ _ _ _ (s.logOverflows _) hmode hfree]
  refine ⟨_, _, controlValue s.layout m, controlMask m, rfl, rfl, ?_,
    fun f => ⟨getLsbD_controlMask m f, get_controlValue hL m f⟩, crReservedZero_controlValue s.layout m, ?_⟩
  · exact packetRequestsRoundTrip s.layout (.ctrlWrite k (controlValue s.layout m) (controlMask m)) hL rfl rfl
  · rw [State.report_tracker, State.setTracker_tracker_same, State.logOverflows_tracker]
    exact afterControl_eq m _

/-! Event words (44_event_codec R212, R213). -/

theorem recordMsb_eq_iff (a b : EventRequest) :
    recordMsb a = recordMsb b ↔ a.absoluteTime.toNat / 16 = b.absoluteTime.toNat / 16 := by
  have ha := a.absoluteTime.isLt
  have hb := b.absoluteTime.isLt
  rw [← BitVec.toNat_inj]
  simp only [recordMsb, BitVec.extractLsb'_toNat, Nat.shiftRight_eq_div_pow]
  omega

/-- Settles O41: the two tests in their order, then the issue of the event word. -/
theorem packEventsRefusals : Obligations.PackEventsRefusals := by
  intro s c r es hc
  subst hc
  have hrun : runRequest (.packEvents r.val es) s =
      if 3 < es.length then .refused .tooManyEvents
      else if msbAgree es then issue r false (eventFields s.layout r.val es) none id s
      else .refused .timeMsbMismatch := by
    rw [runRequest, requestPackEvents]
    exact withChipId_reqId r s _
  rw [hrun]
  refine ⟨fun hlen => if_pos hlen, fun hlen ⟨a, ha, b, hb, hva, hvb, hne⟩ => ?_, fun hlen hagree hmode hfree => ?_⟩
  · rw [if_neg (Nat.not_lt.2 hlen), if_neg]
    exact fun h => hne ((recordMsb_eq_iff a b).1 ((msbAgree_iff_pairs es).1 h a ha b hb hva hvb))
  · have hmsb : msbAgree es = true := (msbAgree_iff_pairs es).2 fun a ha b hb hva hvb =>
      (recordMsb_eq_iff a b).2 (hagree a ha b hb hva hvb)
    rw [if_neg (Nat.not_lt.2 hlen), if_pos hmsb]
    obtain ⟨t, ht, hsent, -⟩ := issue_sends (update := id) hmode hfree rfl
    exact ⟨t, ht, hsent⟩

/-! The row state machine (46_synapse_control R261). -/

theorem rowTable_opens {sub : ScSub} (h : sub = .syn ∨ sub = .plut) {r : Nat} {row : RowState}
    (hrow : row = .idle ∨ row = .rowOpen r) : rowTable sub r row = .to (.rowOpen r) := by
  rcases h with rfl | rfl <;> rcases hrow with rfl | rfl <;> simp [rowTable]

theorem rowTable_conflict {sub : ScSub} (h : sub = .syn ∨ sub = .plut) {r other : Nat} (hne : other ≠ r) :
    rowTable sub r (.rowOpen other) = .conflict other := by
  rcases h with rfl | rfl <;> simp [rowTable, Ne.symm hne]

theorem rowTable_processing {sub : ScSub} (h : sub = .syn ∨ sub = .plut) (r other : Nat) :
    rowTable sub r (.processing other) = .undrawn := by
  rcases h with rfl | rfl <;> rfl

/-- The operands of an access to an element are the request's own; a read carries no data (R97). -/
theorem scOperands_element {op : ScOp} (h : op.sub = .syn ∨ op.sub = .plut) (row col data : Nat) :
    scOperands op row col data = (row, col, if op.isRead then 0 else data) := by
  cases op <;> simp_all [ScOp.sub, scOperands, ScOp.isRead]

/-- Settles O37, by the entry of the transition table. -/
theorem rowOpening : Obligations.RowOpening := by
  intro s c row col data op r asked hc hsub hpoison hasked
  subst hc
  have hops := scOperands_element hsub row col data
  have hred : s.layout.scRow.reduce (scOperands op row col data).1 = asked := by rw [hops]; exact hasked.symm
  rw [runRequest_synapse, if_neg (by simp [hpoison]), hred]
  refine ⟨fun hrow hmode hfree => ?_, fun other hrow hne => ?_, fun other hrow => ?_⟩
  · obtain ⟨t, ht, hword, hpending, hstate, hchips, hothers⟩ := issue_sends (r := r)
      (fields := requestFields s.layout (.synapse r.val op row col data))
      (read := if op.isRead then some (.synram op.sub) else none) (update := fun t => { t with row := .rowOpen asked })
      (s := s.logOverflows (requestLog s.layout (.synapse r.val op row col data))) hmode hfree rfl
    rw [rowTable_opens hsub hrow]
    refine ⟨t, ht, hword.trans ?_, hstate, ?_, hchips, hothers⟩
    · rw [requestFields, hred, hops]
      cases op.isRead <;> simp
    · rw [hpending]
      cases op.isRead <;> rfl
  · rw [hrow, rowTable_conflict hsub hne]
    exact ⟨_, rfl, rfl⟩
  · rw [hrow, rowTable_processing hsub]

theorem rowTable_closed {sub : ScSub} (h : sub ∈ [ScSub.close, .pcor, .pcorc]) (r : Nat) {row : RowState}
    (hrow : ∀ q, row ≠ .rowOpen q) : rowTable sub r row = .undrawn := by
  cases row with
  | rowOpen q => exact absurd rfl (hrow q)
  | idle | processing => cases sub <;> simp_all [rowTable]

theorem rowTable_directive {sub : ScSub} (h : sub ∈ [ScSub.close, .pcor, .pcorc]) (r q : Nat) :
    rowTable sub r (.rowOpen q) = .to (if sub = .close then .idle else .processing q) := by
  cases sub <;> simp_all [rowTable]

theorem rowTable_free {sub : ScSub} (h : sub ∈ [ScSub.ctrl, .time, .corRead]) (r : Nat) (row : RowState) :
    rowTable sub r row = .to row := by
  cases sub <;> simp_all [rowTable]

/-- Settles O38, by the entry of the transition table. -/
theorem rowDirectivesAtIssue : Obligations.RowDirectivesAtIssue := by
  intro s c row col data op r hc
  subst hc
  rw [runRequest_synapse]
  refine ⟨fun hpoison => if_pos hpoison, fun hpoison hsub hrow => ?_, fun hpoison hmode hfree => ?_⟩
  · rw [if_neg (by simp [hpoison]), rowTable_closed hsub _ hrow]
  have hsends (next : RowState) := issue_sends (r := r)
    (fields := requestFields s.layout (.synapse r.val op row col data))
    (read := if op.isRead then some (.synram op.sub) else none) (update := fun t => { t with row := next })
    (s := s.logOverflows (requestLog s.layout (.synapse r.val op row col data))) hmode hfree rfl
  rw [if_neg (by simp [hpoison])]
  refine ⟨fun q hrow hsub => ?_, fun hsub => ?_⟩
  · rw [hrow, rowTable_directive hsub]
    obtain ⟨t, ht, hword, hpending, hstate, -⟩ := hsends (if op.sub = .close then .idle else .processing q)
    refine ⟨t, ht, hword.trans ?_, hpending.trans ?_, hstate⟩ <;>
      cases op <;> simp_all [ScOp.sub, requestFields, scOperands, ScOp.isRead]
  · rw [rowTable_free hsub]
    obtain ⟨t, ht, hword, hpending, hstate, -⟩ := hsends (s.tracker r).row
    refine ⟨t, ht, hword.trans ?_, hpending.trans ?_, hstate⟩ <;>
      cases op <;> simp_all [ScOp.sub, requestFields, scOperands, ScOp.isRead]

end Sys2Proof.Machine
end


section
/-! RSP's step on a response (41_packet_framer R150): the oldest pending read is taken off and ends; what it ends in is
read off the word by the kind of the read. -/

namespace Sys2Proof

/-- An unflagged command word's code is one of the layout's. -/
theorem IsCommand.even {L : Layout} (hL : L.wf = true) {w : Word} {k : ChipId} {rwb cmd : Nat}
    (h : IsCommand w k rwb cmd) (hc : cmd ∈ L.commandCodes) : get w Field.cmd % 2 = 0 := by
  rw [h.cmd]
  exact Layout.wf_code_even hL hc

end Sys2Proof

namespace Sys2Proof.Machine

/-! The three ways an accepted response ends. -/

theorem Tracker.awaitingBatch_eq_none {t : Tracker} (h : ∀ b, t.batch = some b → b.awaiting = none) :
    t.awaitingBatch = none := by
  cases hb : t.batch with
  | none => simp [Tracker.awaitingBatch, hb]
  | some b => simp [Tracker.awaitingBatch, hb, h b hb]

theorem Tracker.awaitingBatch_eq_some {t : Tracker} {b : Batch} {e : Nat × Triple} (hb : t.batch = some b)
    (ha : b.awaiting = some e) : t.awaitingBatch = some (b, e) := by
  simp [Tracker.awaitingBatch, hb, ha]

@[simp] theorem Tracker.ended_awaitingBatch (t : Tracker) (rest : List ReadKind) (r : Result) :
    (t.ended rest r).awaitingBatch = t.awaitingBatch := rfl

/-- An unflagged response to any read but the ctrl/status one gives the read its value. -/
theorem readResult_good {L : Layout} {kind : ReadKind} {w : Word} (hc : get w Field.cmd % 2 = 0)
    (hk : kind ≠ .synram .ctrl) : readResult L kind w = .ok (responseValue L w kind) := by
  unfold readResult
  rw [if_neg (by omega)]
  split
  · exact absurd rfl hk
  · rfl

theorem finishRead_reports {s : State} {k : ChipId} {kind : ReadKind} {w : Word} {u : Tracker}
    (hk : kind ≠ .synram .ctrl) (hb : (∀ a, kind ≠ .param a) ∨ u.awaitingBatch = none) :
    finishRead k kind w u s =
      (s.setTracker (reqOf k) u).report (some k.val) (.ok (responseValue s.layout w kind)) := by
  unfold finishRead
  split
  · exact absurd rfl hk
  · next a => rw [hb.resolve_left fun h => h a rfl]
  · rfl

theorem failRead_reports {s : State} {k : ChipId} {kind : ReadKind} {w : Word} {u : Tracker}
    (hb : (∀ a, kind ≠ .param a) ∨ u.awaitingBatch = none) :
    failRead k kind w u s = (s.setTracker (reqOf k) u).report (some k.val) (.error (responseError w)) := by
  unfold failRead
  split
  · next a b e heq => exact absurd (heq.symm.trans (hb.resolve_left fun h => h a rfl)) nofun
  · rfl

section Accept

variable {s : State} {k : ChipId} {kind : ReadKind} {rest : List ReadKind} {w : Word}
  (hp : (s.tracker (reqOf k)).pending = kind :: rest)
include hp

/-- A good response to a read that neither acts on the tracker nor belongs to a verify batch returns its value. -/
theorem acceptResponse_returned (hc : get w Field.cmd % 2 = 0) (hk : kind ≠ .synram .ctrl)
    (hb : (∀ a, kind ≠ .param a) ∨ (s.tracker (reqOf k)).awaitingBatch = none) :
    ∃ t, acceptResponse k w s = .next t ∧ Returned k rest (.ok (responseValue s.layout w kind)) s t := by
  refine ⟨_, acceptResponse_good hp (by omega), ?_⟩
  rw [Returned, Tracker.answer_eq_ended _ _ hp, readResult_good hc hk]
  exact finishRead_reports hk hb

/-- The error flag ends the read in the error that the word holds (R282). -/
theorem acceptResponse_failed (hc : get w Field.cmd % 2 = 1)
    (hb : (∀ a, kind ≠ .param a) ∨ (s.tracker (reqOf k)).awaitingBatch = none) :
    ∃ t, acceptResponse k w s = .next t ∧ Returned k rest (.error (responseError w)) s t := by
  refine ⟨_, acceptResponse_flagged hp hc, ?_⟩
  rw [Returned, Tracker.answer_eq_ended _ _ hp]
  exact failRead_reports hb

end Accept

/-! The rows of RSP's table. -/

section Rows

variable (k : ChipId) (s : State)

theorem exec_errorResp (rwb : BitVec 1) (cmd : BitVec 4) (ci : BitVec 53) :
    exec (.errorResp k rwb cmd ci) s = acceptResponse k (encode s.layout (.errorResp k rwb cmd ci)) s := rfl

theorem exec_prReadResp (a p1 p2 p3 : Nat) :
    exec (.prReadResp k a p1 p2 p3) s = acceptResponse k (encode s.layout (.prReadResp k a p1 p2 p3)) s := rfl

theorem exec_statusResp0 (ctrl : BitVec 32) (rev : Nat) :
    exec (.statusResp0 k ctrl rev) s = acceptResponse k (encode s.layout (.statusResp0 k ctrl rev)) s := rfl

theorem exec_statusResp1 (fstat : BitVec 4) (fpos : Nat) :
    exec (.statusResp1 k fstat fpos) s = acceptResponse k (encode s.layout (.statusResp1 k fstat fpos)) s := rfl

theorem exec_statusResp2 (fstat : BitVec 4) (fpos : Nat) :
    exec (.statusResp2 k fstat fpos) s = acceptResponse k (encode s.layout (.statusResp2 k fstat fpos)) s := rfl

theorem exec_statusResp3 (fstat : BitVec 4) (fpos : Nat) (hinib : BitVec 4) (pll : BitVec 1) :
    exec (.statusResp3 k fstat fpos hinib pll) s =
      acceptResponse k (encode s.layout (.statusResp3 k fstat fpos hinib pll)) s := rfl

theorem exec_scResp (sub : BitVec 3) (row col data : Nat) :
    exec (.scResp k sub row col data) s = acceptResponse k (encode s.layout (.scResp k sub row col data)) s := rfl

theorem exec_misc_requester (m : MiscCmd) (rwb : BitVec 1) (ci : BitVec 53) (hs : s.side = .requester) :
    exec (m.instr k rwb ci) s =
      acceptResponse k (assemble (rawCommandFields k rwb.toNat (m.code s.layout) ci.toNat)) s := by
  cases m <;> simp only [MiscCmd.instr, exec, execSync, execLoopback, execAreadout, execEvloopback, execDummycmd,
    bareCommand, hs] <;> rfl

end Rows

/-! The parameter RAM. -/

/-- Settles O26: outside a batch the read returns what the word's fields hold; inside, the batch compares it. -/
theorem paramResponseReturns : Obligations.ParamResponseReturns := by
  intro s k a b p1 p2 p3 rest hL hwf hp
  simp only [Instr.wf, Bool.and_eq_true] at hwf
  obtain ⟨⟨⟨-, hf1⟩, hf2⟩, hf3⟩ := hwf
  obtain ⟨hc, -, -, h1, h2, h3⟩ := read_prEntry hL k (rwb := 1) (by decide) a p1 p2 p3
    (w := encode s.layout (.prReadResp k a p1 p2 p3)) rfl
  rw [Field.reduce_of_fits hf1] at h1
  rw [Field.reduce_of_fits hf2] at h2
  rw [Field.reduce_of_fits hf3] at h3
  have heven := hc.even hL s.layout.cmdParamram_mem
  rw [exec_prReadResp]
  refine ⟨fun hb => ?_, fun batch c e hb ha => ?_⟩
  · obtain ⟨t, ht, hr⟩ := acceptResponse_returned hp heven nofun (.inr (Tracker.awaitingBatch_eq_none hb))
    rw [responseValue, h1, h2, h3] at hr
    exact ⟨t, ht, hr⟩
  · rw [acceptResponse_good hp (by omega), Tracker.answer_eq_ended _ _ hp,
      readResult_good (kind := .param b) heven nofun, finishRead, Tracker.ended_awaitingBatch,
      Tracker.awaitingBatch_eq_some hb ha, responseValue, h1, h2, h3]
    simp only [Tracker.afterVerify, Tracker.ended]
    split <;> simp

/-! Status views. -/

/-- A good response to a status read returns the view of the selector asked for (R165). -/
theorem acceptResponse_status {s : State} {k : ChipId} {sel : BitVec 2} {rest : List ReadKind} {w : Word}
    (hp : (s.tracker (reqOf k)).pending = .status sel :: rest) (hc : get w Field.cmd % 2 = 0) {v : StatusView}
    (hv : decodeView s.layout sel w = v) :
    ∃ t, acceptResponse k w s = .next t ∧ Returned k rest (.ok (.status v)) s t := by
  subst hv
  exact acceptResponse_returned hp hc nofun (.inl nofun)

section Views

variable {s : State} {k : ChipId} {rest : List ReadKind} (hL : s.layout.wf = true)
include hL

theorem exec_statusResp0_returns {ctrl : BitVec 32} {rev : Nat} (hr : s.layout.stRev.fits rev = true)
    (hp : (s.tracker (reqOf k)).pending = .status 0#2 :: rest) :
    ∃ t, exec (.statusResp0 k ctrl rev) s = .next t ∧
      Returned k rest (.ok (.status (.control ctrl rev (controlView s.layout ctrl)))) s t := by
  obtain ⟨hc, h1, h2⟩ := read_statusControl hL k ctrl rev (w := encode s.layout (.statusResp0 k ctrl rev)) rfl
  rw [exec_statusResp0]
  exact acceptResponse_status hp (hc.even hL s.layout.cmdControl_mem)
    (by simp [decodeView, h1, h2, Field.reduce_of_fits hr])

theorem exec_statusResp1_returns {fstat : BitVec 4} {fpos : Nat} (hf : s.layout.stFpos.fits fpos = true)
    (hp : (s.tracker (reqOf k)).pending = .status 1#2 :: rest) :
    ∃ t, exec (.statusResp1 k fstat fpos) s = .next t ∧
      Returned k rest (.ok (.status (.clkFifo (decodeNibble s.layout fstat) fpos))) s t := by
  obtain ⟨hc, h1, h2⟩ := read_statusFifo hL k _ fstat fpos (w := encode s.layout (.statusResp1 k fstat fpos)) rfl
  rw [exec_statusResp1]
  exact acceptResponse_status hp (hc.even hL s.layout.cmdControl_mem)
    (by simp [decodeView, h1, h2, Field.reduce_of_fits hf])

theorem exec_statusResp2_returns {fstat : BitVec 4} {fpos : Nat} (hf : s.layout.stFpos.fits fpos = true)
    (hp : (s.tracker (reqOf k)).pending = .status 2#2 :: rest) :
    ∃ t, exec (.statusResp2 k fstat fpos) s = .next t ∧
      Returned k rest (.ok (.status (.clkbFifo (decodeNibble s.layout fstat) fpos))) s t := by
  obtain ⟨hc, h1, h2⟩ := read_statusFifo hL k _ fstat fpos (w := encode s.layout (.statusResp2 k fstat fpos)) rfl
  rw [exec_statusResp2]
  exact acceptResponse_status hp (hc.even hL s.layout.cmdControl_mem)
    (by simp [decodeView, h1, h2, Field.reduce_of_fits hf])

theorem exec_statusResp3_returns {fstat : BitVec 4} {fpos : Nat} {hinib : BitVec 4} {pll : BitVec 1}
    (hf : s.layout.stFpos.fits fpos = true) (hp : (s.tracker (reqOf k)).pending = .status 3#2 :: rest) :
    ∃ t, exec (.statusResp3 k fstat fpos hinib pll) s = .next t ∧
      Returned k rest (.ok (.status (.clkhiFifo (decodeNibble s.layout fstat) fpos hinib (pll == 1#1)))) s t := by
  obtain ⟨hc, h1, h2, h3, h4⟩ := read_statusClkhi hL k fstat fpos hinib pll
    (w := encode s.layout (.statusResp3 k fstat fpos hinib pll)) rfl
  have hpll : (pll.toNat == 1) = (pll == 1#1) := by
    rw [Bool.eq_iff_iff, beq_iff_eq, beq_iff_eq, ← BitVec.toNat_inj]
    rfl
  rw [exec_statusResp3]
  exact acceptResponse_status hp (hc.even hL s.layout.cmdControl_mem)
    (by simp [decodeView, h1, h2, h3, h4, hpll, Field.reduce_of_fits hf])

end Views

/-- RSP takes an unflagged word from a chip with a read in flight as the response that the read's kind makes of it. -/
theorem responseWord_of_kind {s : State} {k : ChipId} {kind : ReadKind} {rest : List ReadKind} {w : Word}
    (hk : get w Field.chipid = k.val) (he : get w Field.eventp = 0) (hc : get w Field.cmd % 2 = 0)
    (hp : (s.tracker (reqOf k)).pending = kind :: rest) :
    responseWord w s = exec (decodeByKind s.layout k w kind) s := by
  have hpending : s.oldestPending k = some kind := by rw [State.oldestPending, hp]; rfl
  rw [responseWord, decodeResponse_of_kind s.layout hk he hpending hc]

/-- The response that a pending status read makes of a word returns the word's view of the selector asked for. -/
theorem exec_decodeByKind_status {s : State} {k : ChipId} {sel : BitVec 2} {rest : List ReadKind}
    (hL : s.layout.wf = true) (hp : (s.tracker (reqOf k)).pending = .status sel :: rest) (w : Word) :
    ∃ t, exec (decodeByKind s.layout k w (.status sel)) s = .next t ∧
      Returned k rest (.ok (.status (decodeView s.layout sel w))) s t := by
  have hcases : sel = 0#2 ∨ sel = 1#2 ∨ sel = 2#2 ∨ sel = 3#2 := by
    clear hp
    revert sel
    decide
  rcases hcases with rfl | rfl | rfl | rfl
  · exact exec_statusResp0_returns hL (Field.fits_get w _) hp
  · exact exec_statusResp1_returns hL (Field.fits_get w _) hp
  · exact exec_statusResp2_returns hL (Field.fits_get w _) hp
  · have hpll : (BitVec.ofNat 1 (get w s.layout.stPll) == 1#1) = (get w s.layout.stPll == 1) := by
      have hlt := get_lt w s.layout.stPll
      rw [Bool.eq_iff_iff, beq_iff_eq, beq_iff_eq, ← BitVec.toNat_inj, BitVec.toNat_ofNat, Nat.mod_eq_of_lt hlt]
      rfl
    obtain ⟨t, ht, hr⟩ := exec_statusResp3_returns hL (Field.fits_get w s.layout.stFpos) hp
    rw [hpll] at hr
    exact ⟨t, ht, hr⟩

/-- Settles O27: the four views read back from their words, and a word with any echo is the response of the selector
asked for. -/
theorem statusResponsesReturn : Obligations.StatusResponsesReturn := by
  intro s k rest hL
  refine ⟨fun ctrl rev hr hp => exec_statusResp0_returns hL (decide_eq_true hr) hp,
    fun fstat fpos hf hp => exec_statusResp1_returns hL (decide_eq_true hf) hp,
    fun fstat fpos hf hp => exec_statusResp2_returns hL (decide_eq_true hf) hp,
    fun fstat fpos hinib pll hf hp => exec_statusResp3_returns hL (decide_eq_true hf) hp,
    fun w asked hk he hc hp => ?_⟩
  have hview : decodeStatus s.layout asked.toNat w = .ok (decodeView s.layout asked w) := by
    rw [decodeStatus, if_neg (by omega), BitVec.ofNat_toNat, BitVec.setWidth_eq]
  obtain ⟨t, ht, hr⟩ := exec_decodeByKind_status hL hp w
  exact ⟨_, t, hview, (responseWord_of_kind hk he hc hp).trans ht, hr⟩

/-! Synapse control. -/

/-- A bit of the data field, read as a field of its own (R97, R250). -/
theorem get_data_bit (L : Layout) (w : Word) {off : Nat} (h : off < L.scData.width) :
    (get w ⟨L.scData.pos + off, 1⟩ == 1) = (get w L.scData).testBit off := by
  rw [get_bit_beq, testBit_get, decide_eq_true h, Bool.true_and]

/-- A done pass leaves the processing state, and no other (R261, R262). -/
theorem afterCtrl_eq (t : Tracker) (done : Bool) :
    t.afterCtrl done = { t with
      row := match done, t.row with
        | true, .processing _ => .idle
        | _, r => r } := by
  obtain ⟨row, pending, poison, prfsm, vfail, batch, readsSent, answers⟩ := t
  cases row <;> cases done <;> rfl

/-- Settles O29: every read but the ctrl/status one returns the data; that one acts on the tracker by its two bits. -/
theorem synapseResponseReturns : Obligations.SynapseResponseReturns := by
  intro s k sub row col data asked rest hL hwf hp
  simp only [Instr.wf, Bool.and_eq_true] at hwf
  obtain ⟨-, -, -, hdone, hcmerr, -⟩ := Layout.wf_scNumbers hL
  obtain ⟨hc, -, -, -, hd⟩ := read_sc hL k (rwb := 1) (by decide) sub.isLt row col data
    (w := encode s.layout (.scResp k sub row col data)) rfl
  rw [Field.reduce_of_fits hwf.2] at hd
  have heven := hc.even hL s.layout.cmdSynram_mem
  have hdoneBit := get_data_bit s.layout (encode s.layout (.scResp k sub row col data)) hdone
  have hcmerrBit := get_data_bit s.layout (encode s.layout (.scResp k sub row col data)) hcmerr
  rw [hd] at hdoneBit hcmerrBit
  rw [exec_scResp]
  refine ⟨fun hne => ?_, fun heq hbit => ?_, fun heq hbit => ?_⟩
  · obtain ⟨t, ht, hr⟩ := acceptResponse_returned hp heven (by simpa using hne) (.inl nofun)
    have hvalue : responseValue s.layout (encode s.layout (.scResp k sub row col data)) (.synram asked) =
        .data data := by
      cases asked <;> simp_all [responseValue]
    exact ⟨t, ht, hvalue ▸ hr⟩
  · subst heq
    rw [hbit, beq_iff_eq] at hcmerrBit
    rw [acceptResponse_good hp (by omega), Tracker.answer_eq_ended _ _ hp, readResult, if_neg (by omega), finishRead,
      if_pos hcmerrBit]
    simp only [if_pos hcmerrBit]
    rfl
  · subst heq
    have hcmerr := hcmerrBit.trans hbit
    rw [beq_eq_false_iff_ne] at hcmerr
    rw [acceptResponse_good hp (by omega), Tracker.answer_eq_ended _ _ hp, readResult, if_neg (by omega), finishRead]
    simp only [if_neg hcmerr, responseValue, hdoneBit, beq_eq_false_iff_ne.2 hcmerr]
    exact congrArg (fun u => Host.Outcome.next ((s.setTracker (reqOf k) u).report (some k.val)
      (.ok (.ctrl (data.testBit s.layout.scDoneOff) false)))) (afterCtrl_eq _ _)

/-! Error responses, bare commands, words that answer nothing. -/

theorem and_code_mask (c : BitVec 4) : c.toNat - c.toNat % 2 = (c &&& 0xE#4).toNat := by
  revert c
  decide

/-- Settles O30: the flag ends the read before its kind is looked at. -/
theorem errorResponseReturns : Obligations.ErrorResponseReturns := by
  intro s k rwb cmd ci kind rest hodd hp
  obtain ⟨hc, hci⟩ := read_rawCommand k cmd.isLt rwb ci (w := encode s.layout (.errorResp k rwb cmd ci)) rfl
  have hflag : get (encode s.layout (.errorResp k rwb cmd ci)) Field.cmd % 2 = 1 := by rw [hc.cmd, hodd]
  have herror : responseError (encode s.layout (.errorResp k rwb cmd ci)) =
      .deviceErrorFlag (cmd &&& 0xE#4).toNat ci := by
    rw [responseError, hc.cmd, hci, and_code_mask, BitVec.ofNat_toNat, BitVec.setWidth_eq]
  rw [exec_errorResp]
  refine ⟨fun hb => ?_, fun a b e hkind hb ha => ?_⟩
  · rw [← herror]
    exact acceptResponse_failed hp hflag (hb.imp_right Tracker.awaitingBatch_eq_none)
  · subst hkind
    rw [acceptResponse_flagged hp hflag, Tracker.answer_eq_ended _ _ hp, herror]
    simp only [failRead, Tracker.ended_awaitingBatch, Tracker.awaitingBatch_eq_some hb ha, herror]
    rfl

/-- A response to a bare command returns the data field as the word holds it (R281). -/
theorem exec_misc_returns {s : State} {k : ChipId} {asked : MiscCmd} {rest : List ReadKind} (hL : s.layout.wf = true)
    (hs : s.side = .requester) (hp : (s.tracker (reqOf k)).pending = .misc asked :: rest) (m : MiscCmd)
    (rwb : BitVec 1) (ci : BitVec 53) :
    ∃ t, exec (m.instr k rwb ci) s = .next t ∧ Returned k rest (.ok (.raw ci)) s t := by
  obtain ⟨hc, hci⟩ := read_rawCommand k (Layout.wf_code_lt hL (s.layout.miscCode_mem m)) rwb ci rfl
  obtain ⟨t, ht, hr⟩ := acceptResponse_returned hp (hc.even hL (s.layout.miscCode_mem m)) nofun (.inl nofun)
  rw [responseValue, hci, BitVec.ofNat_toNat, BitVec.setWidth_eq] at hr
  exact ⟨t, (exec_misc_requester k s m rwb ci hs).trans ht, hr⟩

/-- Settles O31, at each of the five commands. -/
theorem bareResponsesReturnRaw : Obligations.BareResponsesReturnRaw := by
  intro s k rwb ci asked rest hL hs hp
  simp only [List.forall_mem_cons, List.not_mem_nil, false_implies, implies_true, and_true]
  exact ⟨exec_misc_returns hL hs hp .sync rwb ci, exec_misc_returns hL hs hp .loopback rwb ci,
    exec_misc_returns hL hs hp .areadout rwb ci, exec_misc_returns hL hs hp .evloopback rwb ci,
    exec_misc_returns hL hs hp .dummycmd rwb ci⟩

theorem acceptResponse_nothingPending {s : State} {k : ChipId} (hp : (s.tracker (reqOf k)).pending = []) (w : Word) :
    acceptResponse k w s = .refused .unexpectedResponse := by
  rw [acceptResponse, hp]

/-- Settles O33: with nothing pending RSP's decoder has no kind to go by, and every row of a response refuses. -/
theorem unexpectedResponseRefused : Obligations.UnexpectedResponseRefused := by
  intro s k hp
  have haccept := acceptResponse_nothingPending hp
  refine ⟨fun w hk he => ?_, fun i kind hs hchip ha => ?_⟩
  · have hdecode : decodeResponse s.layout s.oldestPending w = .error (.nothingPending k) := by
      simp [decodeResponse, hk, he, State.oldestPending, hp]
    rw [responseWord, hdecode]
    rfl
  · cases i with
    | sync c rwb ci => cases hchip; exact (exec_misc_requester k s .sync rwb ci hs).trans (haccept _)
    | loopback c rwb ci => cases hchip; exact (exec_misc_requester k s .loopback rwb ci hs).trans (haccept _)
    | areadout c rwb ci => cases hchip; exact (exec_misc_requester k s .areadout rwb ci hs).trans (haccept _)
    | evloopback c rwb ci => cases hchip; exact (exec_misc_requester k s .evloopback rwb ci hs).trans (haccept _)
    | dummycmd c rwb ci => cases hchip; exact (exec_misc_requester k s .dummycmd rwb ci hs).trans (haccept _)
    | errorResp | prReadResp | statusResp0 | statusResp1 | statusResp2 | statusResp3 | scResp =>
      cases hchip
      exact haccept _
    | _ => exact absurd ha Bool.false_ne_true

end Sys2Proof.Machine
end


section
/-! The further laws of the codec and the framer (40_bitfield_codec R132, R135; 41_packet_framer R144), bit by bit. -/

namespace Sys2Proof

/-! Slices and replaced slices. -/

section Slices

variable {n : Nat} (w : BitVec n)

/-- A bit outside the slice keeps its value (R135 (a)). -/
theorem getLsbD_putBits_outside (pos width value : Nat) {i : Nat} (h : i < pos ∨ pos + width ≤ i) :
    (putBits w pos width value).getLsbD i = w.getLsbD i := by
  have hout : ¬ (pos ≤ i ∧ i < pos + width) := by omega
  rw [getLsbD_putBits, if_neg hout]
  by_cases hi : i < n
  · simp [hi]
  · simp [hi, BitVec.getLsbD_of_ge w i (Nat.not_lt.1 hi)]

/-- Slices that do not meet are written independently (R135 (b)). -/
theorem putBits_comm (p m p' m' a b : Nat) (h : p + m ≤ p' ∨ p' + m' ≤ p) :
    putBits (putBits w p m a) p' m' b = putBits (putBits w p' m' b) p m a := by
  apply BitVec.eq_of_getLsbD_eq
  intro i hi
  simp only [getLsbD_putBits, hi, decide_true, Bool.true_and]
  by_cases hp : p ≤ i ∧ i < p + m
  · have hp' : ¬ (p' ≤ i ∧ i < p' + m') := by omega
    simp only [if_pos hp, if_neg hp']
  · simp only [if_neg hp]

/-- The last write of a slice stands (R135 (c)). -/
theorem putBits_putBits (p m a b : Nat) : putBits (putBits w p m a) p m b = putBits w p m b := by
  apply BitVec.eq_of_getLsbD_eq
  intro i hi
  simp only [getLsbD_putBits, hi, decide_true, Bool.true_and]
  split <;> rfl

/-- Writing back what a slice holds changes nothing (R135 (d)). -/
theorem putBits_bits (p m : Nat) : putBits w p m (bits w p m) = w := by
  apply BitVec.eq_of_getLsbD_eq
  intro i hi
  simp only [getLsbD_putBits, hi, decide_true, Bool.true_and]
  split
  · next h => rw [testBit_bits, decide_eq_true (by omega), Bool.true_and, Nat.add_sub_cancel' h.1]
  · rfl

/-- A slice is its upper part and its lower part (R135 (f)). -/
theorem bits_split (p : Nat) {m k : Nat} (h : k ≤ m) :
    bits w p m = bits w (p + k) (m - k) * 2 ^ k + bits w p k := by
  have hpow : 2 ^ m = 2 ^ k * 2 ^ (m - k) := by rw [← pow_add, Nat.add_sub_cancel' h]
  rw [bits, bits, bits, hpow, Nat.mod_mul, Nat.shiftRight_add, Nat.shiftRight_eq_div_pow (w.toNat >>> p)]
  ring

/-- The slice of the whole word is the word's value (R135 (g)). -/
theorem bits_whole : bits w 0 n = w.toNat := Nat.mod_eq_of_lt w.isLt

/-- Writing the whole word leaves nothing of the old one (R135 (g)). -/
theorem putBits_whole (a : Nat) : putBits w 0 n a = BitVec.ofNat n a := by
  apply BitVec.eq_of_getLsbD_eq
  intro i hi
  simp only [getLsbD_putBits, BitVec.getLsbD_ofNat, hi, Nat.zero_le, Nat.zero_add, Nat.sub_zero, and_self, if_true]

end Slices

theorem overflowOf_eq_nil (f : Field) (value : Nat) : overflowOf f value = [] ↔ value < 2 ^ f.width := by
  unfold overflowOf
  split
  · next h => simp [Nat.not_lt.2 h]
  · next h => simp [Nat.not_le.1 h]

/-- Settles O45: the two tests are the calls' first. -/
theorem codecOutOfRange : Obligations.CodecOutOfRange := by
  intro w pos width v
  by_cases h : 64 < pos + width
  · simp [codecExtract, codecInsert, h]
  · rw [codecExtract_of_le w (Nat.not_lt.1 h), codecInsert_of_le w v (Nat.not_lt.1 h)]
    exact ⟨iff_of_false nofun h, iff_of_false nofun h⟩

/-- Settles O46, law by law. -/
theorem codecLaws : Obligations.CodecLaws := by
  intro w p n p' n' a b hp hp'
  refine ⟨fun i hi => getLsbD_putBits_outside w p n a hi, fun hd => ⟨?_, putBits_comm w p n p' n' a b hd⟩,
    putBits_putBits w p n a b, putBits_bits w p n, bits_lt w p n, fun m hm => bits_split w p hm, bits_whole w,
    putBits_whole w a, overflowOf ⟨p, n⟩ a, codecInsert_of_le w a hp, overflowOf_eq_nil ⟨p, n⟩ a⟩
  have hdisjoint : (⟨p, n⟩ : Field).disjoint ⟨p', n'⟩ = true := by
    simp only [Field.disjoint, hd, Bool.or_eq_true, decide_eq_true_eq, or_assoc, or_true]
  exact get_put_disjoint w ⟨p, n⟩ ⟨p', n'⟩ a hdisjoint hp'

/-! The framer (R141 to R144). -/

/-- A packet built holds its parts (R141). -/
theorem read_packet (chipId payload : Nat) (isEvent : Bool) {w : Word}
    (hw : w = assemble (packetFields chipId isEvent payload)) :
    get w Field.eventp = isEvent.toNat ∧ get w Field.chipid = chipId % 2 ^ 4 ∧
      get w Field.payload = payload % 2 ^ 58 := by
  have hdisjoint := (pairwiseDisjoint_iff [Field.eventp, Field.chipid, Field.payload]).2 (by decide)
  have h : ∀ p ∈ packetFields chipId isEvent payload, get w p.1 = p.2 % 2 ^ p.1.width := by
    subst hw
    refine fun p hp => get_assemble_mem _ p.1 p.2 hdisjoint hp ?_
    have hin : ∀ f ∈ [Field.eventp, Field.chipid, Field.payload], f.pos + f.width ≤ 64 := by decide
    exact hin p.1 (List.mem_map_of_mem hp)
  simpa [packetFields, Nat.mod_eq_of_lt (Bool.toNat_lt isEvent)] using h

/-- The spare bit, which no field covers (R140). -/
theorem getLsbD_spare (w : Word) {i : Nat} (hi : i < 64) :
    (w &&& ~~~(2#64)).getLsbD i = (w.getLsbD i && !decide (i = 1)) := by
  have htwo : (2#64).getLsbD i = decide (i = 1) := by
    rw [BitVec.getLsbD_ofNat, decide_eq_true hi, Bool.true_and]
    exact (Nat.testBit_two_pow (n := 1)).trans (decide_eq_decide.2 eq_comm)
  rw [BitVec.getLsbD_and, BitVec.getLsbD_not, decide_eq_true hi, htwo, Bool.true_and]

/-- A field without the spare bit does not see it. -/
theorem get_clear_spare (w : Word) {f : Field} (h : 1 < f.pos ∨ f.pos + f.width ≤ 1) (hf : f.pos + f.width ≤ 64) :
    get (w &&& ~~~(2#64)) f = get w f := by
  apply Nat.eq_of_testBit_eq
  intro i
  rw [testBit_get, testBit_get]
  by_cases hi : i < f.width
  · have hne : ¬ f.pos + i = 1 := by omega
    rw [getLsbD_spare w (by omega), decide_eq_false hne, Bool.not_false, Bool.and_true]
  · rw [decide_eq_false hi, Bool.false_and, Bool.false_and]

theorem classify_clear_spare (w : Word) : classify (w &&& ~~~(2#64)) = classify w := by
  simp only [classify, get_clear_spare w (f := Field.chipid) (by decide) (by decide),
    get_clear_spare w (f := Field.eventp) (by decide) (by decide),
    get_clear_spare w (f := Field.payload) (by decide) (by decide)]

/-- A field copied from one word to another carries its bits over. -/
theorem getLsbD_put_get (v w : Word) (f : Field) {i : Nat} (hi : i < 64) :
    (put v f (get w f)).getLsbD i = if f.pos ≤ i ∧ i < f.pos + f.width then w.getLsbD i else v.getLsbD i := by
  rw [getLsbD_put, decide_eq_true hi, Bool.true_and]
  split
  · next h => rw [testBit_get, decide_eq_true (by omega), Bool.true_and, Nat.add_sub_cancel' h.1]
  · rfl

/-- The parts that `classify` reads off a word, put into an empty one, give the word but for the spare bit. -/
theorem assemble_classify (w : Word) :
    assemble (packetFields (classify w).chipId.toNat (classify w).isEvent (classify w).payload.toNat) =
      w &&& ~~~(2#64) := by
  have hid : (classify w).chipId.toNat = get w Field.chipid := Nat.mod_eq_of_lt (get_lt w Field.chipid)
  have hpayload : (classify w).payload.toNat = get w Field.payload := Nat.mod_eq_of_lt (get_lt w Field.payload)
  have hevent : (classify w).isEvent.toNat = get w Field.eventp := by
    rw [classify, Machine.get_bit_beq]
    exact (Machine.get_bit w 0).symm
  apply BitVec.eq_of_getLsbD_eq
  intro i hi
  rw [packetFields, hid, hpayload, hevent]
  simp only [assemble, List.foldl_cons, List.foldl_nil, getLsbD_put_get _ w _ hi, getLsbD_spare w hi]
  by_cases hspare : i = 1
  · subst hspare
    simp
  · have hcover : (6 ≤ i ∧ i < 6 + 58) ∨ (2 ≤ i ∧ i < 2 + 4) ∨ (0 ≤ i ∧ i < 0 + 1) := by omega
    rw [decide_eq_false hspare, Bool.not_false, Bool.and_true]
    rcases hcover with h | h | h <;> simp [h]

/-- Settles O47: the three fields cover every bit but the spare one. -/
theorem framerRoundTrips : Obligations.FramerRoundTrips := by
  refine ⟨fun c payload isEvent hc hpayload => ⟨_, _, if_neg (Nat.not_lt.2 hc), ?_⟩,
    fun w => ⟨overflows (packetFields (classify w).chipId.toNat (classify w).isEvent (classify w).payload.toNat), ?_⟩,
    fun w => ?_, fun w w' h => ?_⟩
  · obtain ⟨he, hid, hp⟩ := read_packet c payload isEvent rfl
    simp only [classify, he, hid, hp, Nat.mod_eq_of_lt (show c < 2 ^ 4 by omega), Nat.mod_eq_of_lt hpayload]
    cases isEvent <;> rfl
  · rw [build, if_neg (by omega), assemble_classify]
  · refine ⟨fun h => ?_, fun h => ?_⟩
    · rw [← h, getLsbD_spare w (by decide), decide_eq_true rfl, Bool.not_true, Bool.and_false]
    · apply BitVec.eq_of_getLsbD_eq
      intro i hi
      rw [getLsbD_spare w hi]
      by_cases h1 : i = 1
      · rw [h1, h, Bool.false_and]
      · rw [decide_eq_false h1, Bool.not_false, Bool.and_true]
  · rw [← classify_clear_spare w, h, classify_clear_spare w']

end Sys2Proof

namespace Sys2Proof.Machine

/-! The bank table (20_memory R74 to R77). -/

/-- An address below the total lies in the one bank whose range holds it, at its offset there. -/
theorem resolveBank_of_lt (bs : List (Bank × Nat)) (a : Nat) (h : a < (bs.map (·.2)).sum) :
    ∃ i, ∃ hi : i < bs.length, resolveBank bs a = some (bs[i].1, a - ((bs.map (·.2)).take i).sum) ∧
      ((bs.map (·.2)).take i).sum ≤ a ∧ a < ((bs.map (·.2)).take (i + 1)).sum := by
  induction bs generalizing a with
  | nil => exact absurd h (Nat.not_lt_zero a)
  | cons b bs ih =>
    by_cases hb : a < b.2
    · exact ⟨0, Nat.zero_lt_succ _, if_pos hb, by simp, by simpa using hb⟩
    · simp only [List.map_cons, List.sum_cons] at h
      obtain ⟨i, hi, hres, hlo, hhi⟩ := ih (a - b.2) (by omega)
      refine ⟨i + 1, Nat.succ_lt_succ hi, ?_, ?_, ?_⟩
      · rw [resolveBank, if_neg hb, hres]
        simp only [List.getElem_cons_succ, List.map_cons, List.take_succ_cons, List.sum_cons, Nat.sub_sub]
      · simp only [List.map_cons, List.take_succ_cons, List.sum_cons]
        omega
      · simp only [List.map_cons, List.take_succ_cons, List.sum_cons] at hhi ⊢
        omega

/-- At and beyond the total there is no bank. -/
theorem resolveBank_of_ge (bs : List (Bank × Nat)) (a : Nat) (h : (bs.map (·.2)).sum ≤ a) :
    resolveBank bs a = none := by
  induction bs generalizing a with
  | nil => rfl
  | cons b bs ih =>
    simp only [List.map_cons, List.sum_cons] at h
    rw [resolveBank, if_neg (by omega)]
    exact ih _ (by omega)

/-- An offset inside a bank, counted from the bank's start, resolves to that bank. -/
theorem resolveBank_start_add (bs : List (Bank × Nat)) {i o : Nat} (hi : i < bs.length) (ho : o < bs[i].2) :
    resolveBank bs (((bs.map (·.2)).take i).sum + o) = some (bs[i].1, o) := by
  induction bs generalizing i with
  | nil => exact absurd hi (Nat.not_lt_zero i)
  | cons b bs ih =>
    cases i with
    | zero =>
      rw [List.take_zero, List.sum_nil, Nat.zero_add, resolveBank]
      exact if_pos ho
    | succ i =>
      have hstep : b.2 + ((bs.map (·.2)).take i).sum + o - b.2 = ((bs.map (·.2)).take i).sum + o := by omega
      rw [List.map_cons, List.take_succ_cons, List.sum_cons, resolveBank, if_neg (by omega), hstep]
      exact ih (Nat.lt_of_succ_lt_succ hi) ho

theorem Bank.index_getElem {i : Nat} (hi : i < Bank.all.length) : Bank.all[i].index = i := by
  have h : ∀ i : Fin 8, (Bank.all[i.val]'i.isLt).index = i.val := by decide
  exact h ⟨i, hi⟩

theorem Bank.getElem_index (k : Bank) : Bank.all[k.index]? = some k := by
  cases k <;> rfl

section Table

variable {L : Layout} (hL : L.wf = true)
include hL

/-- A well-formed layout has a size for each bank (R10 (e)). -/
theorem zip_banks_sizes : (Bank.all.zip L.prBankSize).map (·.2) = L.prBankSize :=
  List.map_snd_zip (by rw [(Layout.wf_prNumbers hL).2.1]; rfl)

theorem length_zip_banks : (Bank.all.zip L.prBankSize).length = 8 := by
  rw [List.length_zip, (Layout.wf_prNumbers hL).2.1]
  rfl

/-- The bank, the offset and the range of an address below the total (R77). -/
theorem bankOf_of_lt {a : Nat} (ha : a < L.prTotal) :
    ∃ k o, bankOf L a = some (k, o) ∧ bankStart L k.index ≤ a ∧ a < bankStart L (k.index + 1) ∧
      o = a - bankStart L k.index ∧ addressOf L k o = some a := by
  obtain ⟨i, hi, hres, hlo, hhi⟩ := resolveBank_of_lt (Bank.all.zip L.prBankSize) a (by rwa [zip_banks_sizes hL])
  rw [zip_banks_sizes hL] at hres hlo hhi
  rw [length_zip_banks hL] at hi
  have hidx : ((Bank.all.zip L.prBankSize)[i]'(by rwa [length_zip_banks hL])).1.index = i := by
    rw [List.getElem_zip]
    exact Bank.index_getElem hi
  have hsize : i < L.prBankSize.length := by rwa [(Layout.wf_prNumbers hL).2.1]
  rw [List.take_succ_eq_append_getElem hsize, List.sum_append, List.sum_singleton] at hhi
  refine ⟨_, _, hres, ?_⟩
  rw [hidx]
  refine ⟨hlo, ?_, rfl, ?_⟩
  · rw [bankStart, List.take_succ_eq_append_getElem hsize, List.sum_append, List.sum_singleton]
    exact hhi
  · rw [addressOf, hidx, List.getElem?_eq_getElem hsize]
    simp only [bankStart]
    rw [if_pos (by omega), Nat.add_sub_cancel' hlo]

/-- The address formed from a bank and an offset resolves to them (R77). -/
theorem bankOf_addressOf {a o : Nat} {k : Bank} (h : addressOf L k o = some a) : bankOf L a = some (k, o) := by
  have hlen := (Layout.wf_prNumbers hL).2.1
  have hk : k.index < 8 := by cases k <;> decide
  rw [addressOf, List.getElem?_eq_getElem (by rwa [hlen])] at h
  simp only [Option.ite_none_right_eq_some, Option.some.injEq] at h
  obtain ⟨ho, rfl⟩ := h
  have hres := resolveBank_start_add (Bank.all.zip L.prBankSize) (i := k.index) (o := o)
    (by rwa [length_zip_banks hL]) (by rw [List.getElem_zip]; exact ho)
  rw [zip_banks_sizes hL, List.getElem_zip] at hres
  have hbank : Bank.all[k.index]'hk = k :=
    Option.some.inj ((List.getElem?_eq_getElem hk).symm.trans (Bank.getElem_index k))
  rw [bankOf, bankStart, hres]
  exact congrArg (fun b => some (b, o)) hbank

end Table

/-- Settles O50: the table is walked from its start, bank by bank; the reference numbers are computed. -/
theorem bankResolution : Obligations.BankResolution := by
  refine ⟨fun L a hL => ⟨bankOf_of_lt hL, fun h => resolveBank_of_ge _ a ?_, fun k o => bankOf_addressOf hL⟩,
    rfl, by decide, by decide, by decide, by decide, by decide⟩
  rwa [zip_banks_sizes hL]

end Sys2Proof.Machine
end


section
/-! Whose step it is and what ENV does (00_scope R17, 70_reset_and_hazards R330 to R348). -/

namespace Sys2Proof.Machine

/-! The environment. -/

/-- The link is drained: no word toward the devices, and no chip on the link with a read in flight (R239). -/
def State.Drained (s : State) : Prop :=
  s.toDevice = [] ∧ ∀ k : ChipId, (s.chip k).present = true → (s.tracker (reqOf k)).pending = []

theorem runEnv_addrMode_drained {s : State} (h : s.Drained) (x : Bool) :
    runEnv (.addrMode x) s = .next { s with addrMode := x } := by
  obtain ⟨hd, hp⟩ := h
  simp [runEnv, hd, s.noneInFlight_iff.2 hp]

theorem runEnv_addrMode_undrained {s : State} (h : ¬ s.Drained) (x : Bool) :
    runEnv (.addrMode x) s = .refused .modeViolation := by
  rw [State.Drained, ← State.noneInFlight_iff, ← List.isEmpty_iff, ← Bool.and_eq_true] at h
  rw [runEnv, if_neg h]

/-- Settles O59: the two cases are `State.Drained` and its negation. -/
theorem modeChangeNeedsDrainedLink : Obligations.ModeChangeNeedsDrainedLink := by
  refine fun s x => ⟨fun h => runEnv_addrMode_drained h x, fun h => runEnv_addrMode_undrained ?_ x⟩
  rintro ⟨hd, hp⟩
  obtain h | ⟨k, hk, hne⟩ := h
  · exact h hd
  · exact hne (hp k hk)

/-- Settles O54: what the reset step makes of each device and of each tracker. -/
theorem resetStepLeaves : Obligations.ResetStepLeaves := by
  intro s
  refine ⟨s.resetStep, rfl, fun k => ?_, fun r => ?_, rfl, rfl, rfl, rfl, rfl, rfl, rfl, rfl⟩
  · rw [State.resetStep_chip]
    exact ⟨rfl, rfl, rfl, rfl, fun a => ⟨rfl, rfl, rfl, rfl, rfl⟩, rfl, rfl, rfl, rfl, rfl, rfl⟩
  · rw [State.resetStep_tracker]
    exact ⟨rfl, rfl, rfl, rfl, rfl, rfl, rfl, fun b hb => (s.tracker r).batchWithoutReads_eq b hb⟩

/-! Legal devices and trackers after reset. -/

theorem Chip.inv_reset {L : Layout} (present : Bool) {revision : Nat} (evOut : List Event)
    (hr : revision < 2 ^ L.revW) : (Chip.reset L present revision evOut).inv L = true := by
  simp [Chip.inv, Chip.reset, SoftReg.reset, crReservedZero_crReset, Field.fits_zero, hr]

theorem State.reset_chip (k : ChipId) : State.reset.chip k = Chip.powerUp .reference k := by
  fin_cases k <;> rfl

theorem State.reset_tracker (r : ReqId) : State.reset.tracker r = Tracker.reset := by
  fin_cases r <;> rfl

/-- Settles O51, at each chip and at each tracker. -/
theorem resetIsLegal : Obligations.ResetIsLegal := by
  have hL : Layout.reference.wf = true := by decide
  rw [Obligations.ResetIsLegal, State.inv, Bool.and_eq_true, Bool.and_eq_true, State.all_chips, State.all_trackers]
  refine ⟨⟨hL, fun k => ?_⟩, fun r => ?_⟩
  · rw [State.reset_chip]
    exact Chip.inv_reset true [] (Nat.mod_lt _ (Nat.two_pow_pos _))
  · rw [State.reset_tracker]
    rfl

/-! Whose step it is. -/

/-- With nothing scheduled the default agent steps. -/
theorem step_default {s : State} (hL : s.layout.wf = true) (hs : s.schedule = []) :
    step s = runAgent (defaultAgent s) s := by
  simp [step, agentStep, hL, hs]

theorem runAgent_dev {s : State} {w : Word} {rest : List Word} (hd : s.toDevice = w :: rest) :
    runAgent .dev s = deviceWord w { s with toDevice := rest, side := .device } := by
  rw [runAgent, hd]

theorem runAgent_rsp {s : State} {w : Word} {rest : List Word} (hr : s.toRequester = w :: rest) :
    runAgent .rsp s = responseWord w { s with toRequester := rest, side := .requester } := by
  rw [runAgent, hr]

/-- REQ runs the next action of a script whose caller does not wait. -/
theorem runAgent_req {s : State} {caller : Nat} {action : Action} {actions : List Action}
    (ha : s.script caller = action :: actions) (hw : s.waits caller action = false) :
    runAgent (.req caller) s = runAction caller action { s with scripts := s.scripts.set caller actions } := by
  simp [runAgent, ha, hw, State.setScript]

theorem runAgent_req_waits {s : State} {caller : Nat} {action : Action} {actions : List Action}
    (ha : s.script caller = action :: actions) (hw : s.waits caller action = true) :
    runAgent (.req caller) s = .next s := by
  simp [runAgent, ha, hw]

theorem deviceWord_ok {w : Word} {s : State} {i : Instr} (h : decodeDevice s.layout s.addrMode w = .ok i) :
    deviceWord w s = exec i s := by
  rw [deviceWord, h]

theorem responseWord_ok {w : Word} {s : State} {i : Instr} (h : decodeResponse s.layout s.oldestPending w = .ok i) :
    responseWord w s = exec i s := by
  rw [responseWord, h]

theorem State.ready_cons {s : State} {caller : Nat} {action : Action} {actions : List Action}
    (h : s.script caller = action :: actions) : s.ready caller = !s.waits caller action := by
  rw [State.ready, h]

/-- Settles O1, agent by agent. -/
theorem stepRunsDecodedWord : Obligations.StepRunsDecodedWord := by
  intro s later hL
  refine ⟨fun w rest i hd hi => ⟨fun hs => ?_, fun hs hr => ?_⟩,
    fun k before after w i hd hb hk hi hs => ?_,
    fun w rest i hr hi => ⟨fun hs => ?_, fun hs => ?_⟩,
    fun caller action actions ha => ⟨fun hs hw => ?_, fun hs hw => ?_, fun hs hd hr hw hfirst => ?_⟩,
    fun e hs => step_scheduled hL hs, fun k => rfl⟩
  · rw [step_dev hL hs hd]
    exact deviceWord_ok hi
  · have hagent : defaultAgent s = .dev := by simp [defaultAgent, hr, hd]
    rw [step_default hL hs, hagent, runAgent_dev hd]
    exact deviceWord_ok hi
  · have htake : takeFor k s.toDevice = some (w, before ++ after) :=
      (takeFor_iff k _ _ _).2 ⟨before, after, hd, rfl, hk, hb⟩
    rw [step_scheduled hL hs]
    simp only [runAgent, htake]
    exact deviceWord_ok hi
  · rw [step_rsp hL hs hr]
    exact responseWord_ok hi
  · have hagent : defaultAgent s = .rsp := by simp [defaultAgent, hr]
    rw [step_default hL hs, hagent, runAgent_rsp hr]
    exact responseWord_ok hi
  · rw [step_scheduled hL hs]
    exact runAgent_req_waits (s := { s with schedule := later }) ha hw
  · rw [step_scheduled hL hs]
    exact runAgent_req (s := { s with schedule := later }) ha hw
  · have hready : s.ready caller = true := by rw [State.ready_cons ha, hw, Bool.not_false]
    have hbefore : ∀ j, j < caller → s.ready j = false := by
      intro j hj
      cases hscript : s.script j with
      | nil => rw [State.ready, hscript]
      | cons a as => rw [State.ready_cons hscript, hfirst j a as hj hscript, Bool.not_true]
    have hagent : defaultAgent s = .req caller := by
      simp [defaultAgent, hd, hr, s.nextCaller_eq caller hready hbefore]
    rw [step_default hL hs, hagent, runAgent_req ha hw]

/-! Words without an instruction. -/

theorem refusalOf_decodeParam {L : Layout} {k : ChipId} {w : Word} {e : DecodeError}
    (h : decodeParam L k w = .error e) : refusalOf e = .undefinedEncoding := by
  unfold decodeParam at h
  split at h <;> cases h
  rfl

theorem refusalOf_decodeSynapse {L : Layout} {k : ChipId} {w : Word} {e : DecodeError}
    (h : decodeSynapse L k w = .error e) : refusalOf e = .undefinedEncoding := by
  unfold decodeSynapse at h
  split at h <;> cases h
  rfl

theorem refusalOf_decodeCommand {L : Layout} {k : ChipId} {w : Word} {e : DecodeError}
    (h : decodeCommand L k w = .error e) : refusalOf e = .undefinedEncoding := by
  unfold decodeCommand at h
  dsimp only at h
  split_ifs at h with hflag hparam hcontrol hsynapse
  · cases h
    rfl
  · exact refusalOf_decodeParam h
  · exact refusalOf_decodeSynapse h
  · cases h
    rfl

/-- The device's decoder refuses for the encoding (R114, R115). -/
theorem refusalOf_decodeDevice {L : Layout} {m : Bool} {w : Word} {e : DecodeError}
    (h : decodeDevice L m w = .error e) : refusalOf e = .undefinedEncoding := by
  unfold decodeDevice at h
  split_ifs at h
  exact refusalOf_decodeCommand h

/-- RSP's decoder refuses for want of a pending read (R150). -/
theorem refusalOf_decodeResponse {L : Layout} {pendingOf : ChipId → Option ReadKind} {w : Word} {e : DecodeError}
    (h : decodeResponse L pendingOf w = .error e) : refusalOf e = .unexpectedResponse := by
  unfold decodeResponse at h
  split at h
  · split at h
    · cases h
    · split at h
      · cases h
        rfl
      · split at h <;> cases h
  · cases h

/-- Settles O2: which errors the two decoders give. -/
theorem stepOnUndecodedWord : Obligations.StepOnUndecodedWord := by
  intro s w rest e later hL
  refine ⟨fun hs hd he => ?_, fun hs hr he => ?_⟩
  · rw [step_dev hL hs hd, deviceWord]
    simp only [he]
    exact ⟨fun ha => (if_pos ha).trans (congrArg _ (refusalOf_decodeDevice he)),
      fun ha => if_neg (Bool.not_eq_true _ ▸ ha)⟩
  · rw [step_rsp hL hs hr, responseWord]
    split
    · next i hi => exact absurd (hi.symm.trans he) nofun
    · next e' he' => exact congrArg _ (refusalOf_decodeResponse he')

end Sys2Proof.Machine
end


section
/-! What a word does to the device instances and the trackers: it leaves them all as they are, writes one element or
register of its own chip's device, or is its chip's response (10_state R54). -/

namespace Sys2Proof.Machine

/-! The device as the word's row writes it. -/

/-- The device after the word's write; of a word that writes nothing, the device as it is. -/
def Chip.written (L : Layout) (c : Chip) : Instr → Chip
  | .dlSet _ a v => { c with dl := c.dl.write a v }
  | .event _ m s0 s1 s2 => { c with evOut := c.evOut ++ slotEvents L m [s0, s1, s2] }
  | .prWrite _ a p1 p2 p3 => { c with pram := c.pram.write a ⟨p1, p2, p3⟩ }
  | .prPeriod _ v => { c with period := ⟨v, true⟩ }
  | .prLut _ idx time boost rep step => { c with lut := c.lut.write idx ⟨time, boost, rep, step⟩ }
  | .prCount _ v => { c with pcount := ⟨v, true⟩ }
  | .ctrlWrite _ val fmask => { c with cr := maskedWrite L c.cr val fmask }
  | .scTimeW _ v => { c with sctime := ⟨v, true⟩ }
  | .scPlutW _ row col data => { c with plut := c.plut.write (synapseIndex L row col) data }
  | .scSynW _ row col data => { c with syn := c.syn.write (synapseIndex L row col) data }
  | .scPcor _ => c.startPass
  | .scPcorc _ => c.startPass
  | _ => c

/-- The element that the word writes is one of its array's (R117). -/
def InArray (L : Layout) : Instr → Prop
  | .dlSet _ a _ => a < 36
  | .prWrite _ a _ _ _ => a < L.prTotal
  | .prLut _ idx _ _ _ _ => idx < L.lutN
  | .scPlutW _ row col _ => row < L.scRows ∧ col < L.scCols
  | .scSynW _ row col _ => row < L.scRows ∧ col < L.scCols
  | _ => True

/-- The word leaves every device and every tracker as it is, writes its own chip's device, or is accepted as its
chip's response. -/
def WordEffect (i : Instr) (s t : State) : Prop :=
  (t.chips = s.chips ∧ t.trackers = s.trackers) ∨
    (∃ k, i.chip = some k ∧ InArray s.layout i ∧ t = s.setChip k ((s.chip k).written s.layout i)) ∨
    ∃ k w, i.chip = some k ∧ acceptResponse k w s = .next t

theorem acceptResponse_chips {k : ChipId} {w : Word} {s t : State} (h : acceptResponse k w s = .next t) :
    t.chips = s.chips := by
  obtain ⟨kind, rest, -, rfl | rfl⟩ := acceptResponse_next h
  · obtain ⟨u, e, hf, -⟩ := failRead_effect k kind w ((s.tracker (reqOf k)).answer (readResult s.layout kind w)) s
    rw [hf]
    rfl
  · obtain ⟨u, rs, hf, -⟩ := finishRead_effect k kind w ((s.tracker (reqOf k)).answer (readResult s.layout kind w)) s
    rw [hf]
    rfl

section Rows

variable {i : Instr} {k : ChipId} {s t : State} {f : Chip → Host.Outcome State Fault Refusal}

/-- An absent device skips, so it is enough to look at a present one's row. -/
theorem wordEffect_device (h : onDevice k s f = .next t) (hf : f (s.chip k) = .next t → WordEffect i s t) :
    WordEffect i s t := by
  rcases onDevice_next h with ⟨-, rfl⟩ | ⟨-, h⟩
  · exact .inl ⟨rfl, rfl⟩
  · exact hf h

theorem wordEffect_write (hk : i.chip = some k) (hin : InArray s.layout i) :
    WordEffect i s (s.setChip k ((s.chip k).written s.layout i)) :=
  .inr (.inl ⟨k, hk, hin, rfl⟩)

theorem wordEffect_accept (hk : i.chip = some k) {w : Word} (h : acceptResponse k w s = .next t) : WordEffect i s t :=
  .inr (.inr ⟨k, w, hk, h⟩)

theorem wordEffect_bare (hk : i.chip = some k) {w : Word} (h : bareCommand k w s = .next t) : WordEffect i s t := by
  unfold bareCommand at h
  split at h
  · exact wordEffect_device h nofun
  · exact wordEffect_accept hk h

end Rows

theorem readTriple_keeps (s : State) (m : Memory Triple) (a : Nat) :
    (readTriple s m a).2.chips = s.chips ∧ (readTriple s m a).2.trackers = s.trackers := by
  unfold readTriple
  split <;> exact ⟨rfl, rfl⟩

theorem readData_keeps (s : State) (m : Memory Nat) (a : Nat) :
    (readData s m a).2.chips = s.chips ∧ (readData s m a).2.trackers = s.trackers := by
  unfold readData
  split <;> exact ⟨rfl, rfl⟩

theorem readReg_keeps (s : State) (r : SoftReg) (w : Nat) :
    (readReg s r w).2.chips = s.chips ∧ (readReg s r w).2.trackers = s.trackers := by
  unfold readReg
  split <;> exact ⟨rfl, rfl⟩

/-- What a word does to the instances and the trackers, row by row. -/
theorem exec_word {i : Instr} {s t : State} (h : exec i s = .next t) : WordEffect i s t := by
  cases i with
  | empty =>
    cases h
    exact .inl ⟨rfl, rfl⟩
  | dlSet k a v =>
    rw [exec_dlSet] at h
    refine wordEffect_device h fun h => ?_
    split_ifs at h with ha
    cases h
    exact wordEffect_write rfl ha
  | event k m s0 s1 s2 =>
    simp only [exec, execEvent] at h
    split at h
    · refine wordEffect_device h fun h => ?_
      cases h
      exact wordEffect_write (i := .event k m s0 s1 s2) rfl trivial
    · cases h
      exact .inl ⟨rfl, rfl⟩
  | prWrite k a p1 p2 p3 =>
    rw [exec_prWrite] at h
    refine wordEffect_device h fun h => ?_
    split_ifs at h with ha
    cases h
    exact wordEffect_write (i := .prWrite k a p1 p2 p3) rfl (lt_of_paramAddressOk ha)
  | prLut k idx time boost rep step =>
    rw [exec_prLut] at h
    refine wordEffect_device h fun h => ?_
    split_ifs at h with ha
    cases h
    exact wordEffect_write (i := .prLut k idx time boost rep step) rfl ha
  | prPeriod k v | prCount k v | scTimeW k v =>
    simp only [exec_prPeriod, exec_prCount, exec_scTimeW] at h
    refine wordEffect_device h fun h => ?_
    cases h
    exact .inr (.inl ⟨k, rfl, trivial, rfl⟩)
  | ctrlWrite k val fmask =>
    rw [exec_ctrlWrite] at h
    refine wordEffect_device h fun h => ?_
    cases h
    exact wordEffect_write (i := .ctrlWrite k val fmask) rfl trivial
  | scPlutW k row col d | scSynW k row col d =>
    simp only [exec_scPlutW, exec_scSynW] at h
    refine wordEffect_device h fun h => ?_
    obtain ⟨-, hr, hc, h⟩ := onElement_next h
    cases h
    exact .inr (.inl ⟨k, rfl, ⟨hr, hc⟩, rfl⟩)
  | scPcor k | scPcorc k =>
    simp only [exec_scPcor, exec_scPcorc] at h
    refine wordEffect_device h fun h => ?_
    obtain ⟨-, h⟩ := whileIdle_next h
    cases h
    exact .inr (.inl ⟨k, rfl, trivial, rfl⟩)
  | prRead k a =>
    rw [exec_prRead] at h
    refine wordEffect_device h fun h => ?_
    split_ifs at h
    cases h
    exact .inl (readTriple_keeps s _ a)
  | statusRead0 k | statusRead1 k | statusRead2 k | statusRead3 k | scCtrlR k =>
    simp only [exec_statusRead0, exec_statusRead1, exec_statusRead2, exec_statusRead3, exec_scCtrlR] at h
    refine wordEffect_device h fun h => ?_
    cases h
    exact .inl ⟨rfl, rfl⟩
  | scTimeR k =>
    rw [exec_scTimeR] at h
    refine wordEffect_device h fun h => ?_
    cases h
    exact .inl (readReg_keeps s _ _)
  | scPlutR k row col | scSynR k row col =>
    simp only [exec_scPlutR, exec_scSynR] at h
    refine wordEffect_device h fun h => ?_
    obtain ⟨-, -, -, h⟩ := onElement_next h
    cases h
    exact .inl (readData_keeps s _ _)
  | scClose k =>
    rw [exec_scClose] at h
    refine wordEffect_device h fun h => ?_
    obtain ⟨-, h⟩ := whileIdle_next h
    cases h
    exact .inl ⟨rfl, rfl⟩
  | scCorRead k col =>
    rw [exec_scCorRead] at h
    refine wordEffect_device h fun h => ?_
    split_ifs at h
    cases h
    exact .inl ⟨rfl, rfl⟩
  | errorResp | prReadResp | statusResp0 | statusResp1 | statusResp2 | statusResp3 | scResp =>
    exact wordEffect_accept rfl h
  | sync | loopback | areadout | evloopback | dummycmd => exact wordEffect_bare rfl h

theorem State.chip_eq_of_chips {s t : State} (h : t.chips = s.chips) (k : ChipId) : t.chip k = s.chip k := by
  rw [State.chip, State.chip, h]

/-! What every instruction leaves as it was. -/

/-- What no instruction changes: the mode pin, the layout, the overflow log, the words toward the device. -/
theorem Effect.frame {k : ChipId} {s t : State} (h : Effect k s t) :
    t.addrMode = s.addrMode ∧ t.layout = s.layout ∧ t.overflowLog = s.overflowLog ∧ t.toDevice = s.toDevice := by
  rcases h with rfl | ⟨c, -, rfl⟩ | ⟨w, n, h⟩ | ⟨kind, rest, u, rs, -, -, rfl⟩ | ⟨es, rfl⟩
  case inr.inr.inl => rw [h]; exact ⟨rfl, rfl, rfl, rfl⟩
  all_goals exact ⟨rfl, rfl, rfl, rfl⟩

/-- Every device keeps its strap, its revision and `CMERR`. -/
theorem Effect.keepsIdentity {k : ChipId} {s t : State} (h : Effect k s t) (j : ChipId) :
    KeepsIdentity (s.chip j) (t.chip j) := by
  rcases h with rfl | ⟨c, hc, rfl⟩ | ⟨w, n, h⟩ | ⟨kind, rest, u, rs, -, -, rfl⟩ | ⟨es, rfl⟩
  case inr.inl =>
    by_cases hj : j = k
    · rw [hj, State.setChip_chip_same]
      exact hc
    · rw [State.setChip_chip_ne s k j c hj]
      exact ⟨rfl, rfl, rfl⟩
  case inr.inr.inl => rw [h]; exact ⟨rfl, rfl, rfl⟩
  all_goals exact ⟨rfl, rfl, rfl⟩

/-- No device but the word's own changes (R54). -/
theorem Effect.chip_ne {k : ChipId} {s t : State} (h : Effect k s t) {j : ChipId} (hj : j ≠ k) :
    t.chip j = s.chip j := by
  rcases h with rfl | ⟨c, -, rfl⟩ | ⟨w, n, h⟩ | ⟨kind, rest, u, rs, -, -, rfl⟩ | ⟨es, rfl⟩
  case inr.inl => exact State.setChip_chip_ne s k j c hj
  case inr.inr.inl => rw [h]; rfl
  all_goals rfl

/-- No tracker but the word's own changes. -/
theorem Effect.tracker_ne {k : ChipId} {s t : State} (h : Effect k s t) {r : ReqId} (hr : r ≠ reqOf k) :
    t.tracker r = s.tracker r := by
  rcases h with rfl | ⟨c, -, rfl⟩ | ⟨w, n, h⟩ | ⟨kind, rest, u, rs, -, -, rfl⟩ | ⟨es, rfl⟩
  case inr.inr.inl => rw [h]; rfl
  case inr.inr.inr.inl => exact State.setTracker_tracker_ne s (reqOf k) r u hr
  all_goals rfl

theorem exec_effect {i : Instr} {k : ChipId} {s t : State} (hk : i.chip = some k) (h : exec i s = .next t) :
    Effect k s t := by
  rcases exec_next h with ⟨rfl, -⟩ | ⟨k', hk', he⟩
  · exact absurd hk nofun
  · cases hk.symm.trans hk'
    exact he

/-- Settles O57: what `Effect` leaves alone, for the empty word everything. -/
theorem wordsKeepModeAndCmerr : Obligations.WordsKeepModeAndCmerr := by
  intro i s t h
  rcases exec_next h with ⟨-, rfl⟩ | ⟨k, -, he⟩
  · exact ⟨rfl, rfl, rfl, rfl, fun j => ⟨rfl, rfl, rfl⟩⟩
  · obtain ⟨hmode, hlayout, hlog, hdevice⟩ := he.frame
    refine ⟨hmode, hlayout, hlog, hdevice, fun j => ?_⟩
    obtain ⟨hpresent, hrevision, hcmerr⟩ := he.keepsIdentity j
    exact ⟨hcmerr, hpresent, hrevision⟩

/-! The write-read law of the parameter RAM. -/

/-- A word that is not a write of the entry keeps it. -/
theorem pram_written (L : Layout) (c : Chip) {i : Instr} {a : Nat} (h : ∀ k p1 p2 p3, i ≠ .prWrite k a p1 p2 p3) :
    (c.written L i).pram.read a = c.pram.read a := by
  cases i with
  | prWrite k b p1 p2 p3 => exact Memory.read_write_ne _ _ _ _ fun hb => h k p1 p2 p3 (hb ▸ rfl)
  | _ => rfl

/-- The device is on the link and its entry `a` holds the triple. -/
def Holds (k : ChipId) (a : Nat) (v : Triple) (s : State) : Prop :=
  (s.chip k).present = true ∧ (s.chip k).pram.read a = some v

/-- A `PR.WRITE` to an entry of the RAM, on a device that is on the link, makes it so (R185). -/
theorem holds_of_prWrite {k : ChipId} {a p1 p2 p3 : Nat} {s t : State} (hp : (s.chip k).present = true)
    (ha : a < s.layout.prTotal) (h : exec (.prWrite k a p1 p2 p3) s = .next t) :
    Holds k a ⟨p1, p2, p3⟩ t ∧ t.layout = s.layout := by
  rw [exec_prWrite, onDevice_present _ _ _ hp, if_pos (paramAddressOk_of_lt ha)] at h
  cases h
  rw [Holds, State.setChip_chip_same]
  exact ⟨⟨hp, Memory.read_write_same _ _ _⟩, rfl⟩

/-- One word keeps an entry that it does not write. -/
theorem Holds.exec {k : ChipId} {a : Nat} {v : Triple} {s t : State} {i : Instr} (hs : Holds k a v s)
    (hi : ∀ p1 p2 p3, i ≠ .prWrite k a p1 p2 p3) (h : exec i s = .next t) : Holds k a v t := by
  obtain ⟨hp, hr⟩ := hs
  have hpresent : (t.chip k).present = true := by
    obtain ⟨-, -, -, -, hkept⟩ := wordsKeepModeAndCmerr i s t h
    obtain ⟨-, hkept, -⟩ := hkept k
    rw [hkept, hp]
  refine ⟨hpresent, ?_⟩
  rcases exec_word h with ⟨hchips, -⟩ | ⟨j, hj, -, rfl⟩ | ⟨j, w, -, haccept⟩
  · rw [State.chip_eq_of_chips hchips, hr]
  · by_cases hjk : k = j
    · subst hjk
      rw [State.setChip_chip_same, pram_written s.layout, hr]
      rintro k' p1 p2 p3 rfl
      cases hj
      exact hi p1 p2 p3 rfl
    · rw [State.setChip_chip_ne s j k _ hjk, hr]
  · rw [State.chip_eq_of_chips (acceptResponse_chips haccept), hr]

/-- A list of words none of which writes the entry keeps it. -/
theorem Holds.runInstrs {k : ChipId} {a : Nat} {v : Triple} (is : List Instr) (hn : noParamWrite k a is = true)
    {s t : State} (hs : Holds k a v s) (h : runInstrs is s = .next t) : Holds k a v t ∧ t.layout = s.layout := by
  induction is generalizing s with
  | nil =>
    cases h
    exact ⟨hs, rfl⟩
  | cons i is ih =>
    rw [noParamWrite, List.all_cons, Bool.and_eq_true] at hn
    obtain ⟨hi, his⟩ := hn
    rw [Machine.runInstrs] at h
    split at h
    · next u hu =>
      have hne : ∀ p1 p2 p3, i ≠ .prWrite k a p1 p2 p3 := by
        rintro p1 p2 p3 rfl
        simp at hi
      obtain ⟨ht, hL⟩ := ih his (hs.exec hne hu) h
      obtain ⟨-, hLu, -⟩ := wordsKeepModeAndCmerr i s u hu
      exact ⟨ht, hL.trans hLu⟩
    · cases h
    · cases h

/-- Settles O58, by induction over the words between: each keeps the entry, and the read answers with it. -/
theorem paramWriteReadLaw : Obligations.ParamWriteReadLaw := by
  intro s t u k a p1 p2 p3 between hp ha hn hw hrun
  obtain ⟨hholds, hLt⟩ := holds_of_prWrite hp ha hw
  obtain ⟨⟨hpu, hru⟩, hLu⟩ := hholds.runInstrs between hn hrun
  have hau : a < u.layout.prTotal := by rwa [hLu, hLt]
  obtain ⟨hanswer, -⟩ := paramReadAnswers u k a hpu hau
  obtain ⟨v, hv, h⟩ := hanswer _ hru
  rw [hLu, hLt] at h
  exact ⟨v, hv, h⟩

/-! Chips share nothing: with another chip's device replaced, a word does the same, and the replacement stays. -/

/-- The outcome with the device of chip `j` replaced in its state. -/
def replaceChip (j : ChipId) (c : Chip) : Host.Outcome State Fault Refusal → Host.Outcome State Fault Refusal
  | .next t => .next (t.setChip j c)
  | .fault f => .fault f
  | .refused r => .refused r

theorem State.setChip_comm (s : State) {j k : ChipId} (hj : j ≠ k) (c d : Chip) :
    (s.setChip j c).setChip k d = (s.setChip k d).setChip j c := by
  have hne : (j : Nat) ≠ (k : Nat) := fun e => hj (Fin.ext e)
  simp only [State.setChip, Vector.set_comm _ _ hne]

section Replace

variable {j k : ChipId} (hj : j ≠ k) (c : Chip) (s : State)

theorem readTriple_setChip (m : Memory Triple) (a : Nat) :
    readTriple (s.setChip j c) m a = ((readTriple s m a).1, (readTriple s m a).2.setChip j c) := by
  unfold readTriple
  cases m.read a <;> rfl

theorem readData_setChip (m : Memory Nat) (a : Nat) :
    readData (s.setChip j c) m a = ((readData s m a).1, (readData s m a).2.setChip j c) := by
  unfold readData
  cases m.read a <;> rfl

theorem readReg_setChip (r : SoftReg) (w : Nat) :
    readReg (s.setChip j c) r w = ((readReg s r w).1, (readReg s r w).2.setChip j c) := by
  unfold readReg
  split <;> rfl

theorem finishRead_setChip (kind : ReadKind) (w : Word) (u : Tracker) :
    finishRead k kind w u (s.setChip j c) = (finishRead k kind w u s).setChip j c := by
  unfold finishRead
  split
  · rw [apply_ite fun t : State => t.setChip j c]
    rfl
  · split <;> rfl
  · rfl

theorem failRead_setChip (kind : ReadKind) (w : Word) (u : Tracker) :
    failRead k kind w u (s.setChip j c) = (failRead k kind w u s).setChip j c := by
  unfold failRead
  split <;> rfl

theorem acceptResponse_setChip (w : Word) :
    acceptResponse k w (s.setChip j c) = replaceChip j c (acceptResponse k w s) := by
  simp only [acceptResponse, State.setChip_tracker, State.setChip_layout, finishRead_setChip, failRead_setChip]
  split
  · rfl
  · split <;> rfl

theorem replaceChip_ite (p : Prop) [Decidable p] (a b : Host.Outcome State Fault Refusal) :
    replaceChip j c (if p then a else b) = if p then replaceChip j c a else replaceChip j c b := apply_ite _ p a b

theorem replaceChip_whileIdle (d : Chip) (o : Host.Outcome State Fault Refusal) :
    replaceChip j c (whileIdle d o) = whileIdle d (replaceChip j c o) := replaceChip_ite c _ _ _

theorem replaceChip_onElement (L : Layout) (d : Chip) (row col : Nat) (o : Host.Outcome State Fault Refusal) :
    replaceChip j c (onElement L d row col o) = onElement L d row col (replaceChip j c o) := by
  rw [onElement, replaceChip_whileIdle, replaceChip_ite]
  rfl

include hj

/-- The device's test and its row see the word's own chip only. -/
theorem onDevice_setChip {f g : Chip → Host.Outcome State Fault Refusal} (h : ∀ d, f d = replaceChip j c (g d)) :
    onDevice k (s.setChip j c) f = replaceChip j c (onDevice k s g) := by
  rw [onDevice, onDevice, State.setChip_chip_ne s j k c hj.symm, replaceChip_ite, h]
  rfl

theorem bareCommand_setChip (w : Word) : bareCommand k w (s.setChip j c) = replaceChip j c (bareCommand k w s) := by
  simp only [bareCommand, State.setChip_side]
  split
  · exact onDevice_setChip hj c s fun _ => rfl
  · exact acceptResponse_setChip c s w

/-- A word of chip `k` does the same beside another chip's device (R54, R324). -/
theorem exec_setChip {i : Instr} (hi : i.chip = some k) :
    exec i (s.setChip j c) = replaceChip j c (exec i s) := by
  cases i with
  | empty => exact absurd hi nofun
  | errorResp | prReadResp | statusResp0 | statusResp1 | statusResp2 | statusResp3 | scResp =>
    cases hi
    exact acceptResponse_setChip c s _
  | sync | loopback | areadout | evloopback | dummycmd =>
    cases hi
    exact bareCommand_setChip hj c s _
  | event _ m s0 s1 s2 =>
    cases hi
    simp only [exec, execEvent, State.setChip_side]
    split
    · exact onDevice_setChip hj c s fun d => congrArg _ (s.setChip_comm hj c _)
    · rfl
  | dlSet _ a v =>
    cases hi
    simp only [exec_dlSet, State.setChip_comm s hj]
    refine onDevice_setChip hj c s fun d => ?_
    rw [replaceChip_ite]
    rfl
  | prWrite _ a p1 p2 p3 =>
    cases hi
    simp only [exec_prWrite, State.setChip_comm s hj]
    refine onDevice_setChip hj c s fun d => ?_
    rw [replaceChip_ite]
    rfl
  | prLut _ idx time boost rep step =>
    cases hi
    simp only [exec_prLut, State.setChip_comm s hj]
    refine onDevice_setChip hj c s fun d => ?_
    rw [replaceChip_ite]
    rfl
  | prPeriod | prCount | ctrlWrite | scTimeW =>
    cases hi
    simp only [exec_prPeriod, exec_prCount, exec_ctrlWrite, exec_scTimeW, State.setChip_comm s hj]
    exact onDevice_setChip hj c s fun d => rfl
  | prRead _ a =>
    cases hi
    simp only [exec_prRead, readTriple_setChip]
    refine onDevice_setChip hj c s fun d => ?_
    rw [replaceChip_ite]
    rfl
  | statusRead0 | statusRead1 | statusRead2 | statusRead3 | scCtrlR =>
    cases hi
    simp only [exec_statusRead0, exec_statusRead1, exec_statusRead2, exec_statusRead3, exec_scCtrlR]
    exact onDevice_setChip hj c s fun d => rfl
  | scTimeR =>
    cases hi
    simp only [exec_scTimeR, readReg_setChip]
    exact onDevice_setChip hj c s fun d => rfl
  | scPlutW _ row col data | scSynW _ row col data =>
    cases hi
    simp only [exec_scPlutW, exec_scSynW, State.setChip_comm s hj]
    refine onDevice_setChip hj c s fun d => ?_
    rw [replaceChip_onElement]
    rfl
  | scPlutR _ row col | scSynR _ row col =>
    cases hi
    simp only [exec_scPlutR, exec_scSynR, readData_setChip]
    refine onDevice_setChip hj c s fun d => ?_
    rw [replaceChip_onElement]
    rfl
  | scClose =>
    cases hi
    rw [exec_scClose, exec_scClose]
    refine onDevice_setChip hj c s fun d => ?_
    rw [replaceChip_whileIdle]
    rfl
  | scCorRead _ col =>
    cases hi
    rw [exec_scCorRead, exec_scCorRead]
    refine onDevice_setChip hj c s fun d => ?_
    rw [replaceChip_ite]
    rfl
  | scPcor | scPcorc =>
    cases hi
    simp only [exec_scPcor, exec_scPcorc, State.setChip_comm s hj]
    refine onDevice_setChip hj c s fun d => ?_
    rw [replaceChip_whileIdle]
    rfl

end Replace

/-- Settles O56: `Effect` says what other chips keep, and the outcome beside a replaced device is the outcome with
that device replaced. -/
theorem chipsAreIndependent : Obligations.ChipsAreIndependent := by
  intro i k s t hi h
  have he := exec_effect hi h
  refine ⟨fun j hj => he.chip_ne hj, fun r hr => he.tracker_ne hr, fun j c hj => ⟨t.setChip j c, ?_, ?_, rfl, rfl, rfl⟩⟩
  · rw [exec_setChip hj c s hi, h]
    rfl
  · exact State.setChip_chip_ne t j k c hj.symm

end Sys2Proof.Machine
end


section
/-! The callers (60_exceptions R305, R317): blocking calls, the verify batch, the poll; and everything an action can do,
said once. -/

namespace Sys2Proof.Machine

/-! A request as a blocking call. -/

/-- Where no tracker has counted a read, none was sent. -/
theorem readSent_eq_none {s t : State} (h : ∀ c, (t.tracker c).readsSent = (s.tracker c).readsSent)
    (chipId : Option Nat) : readSent chipId s t = none := by
  unfold readSent
  split
  · rfl
  · split
    · exact if_neg (by rw [h]; exact Nat.lt_irrefl _)
    · rfl

theorem ReportedOnly.tracker {s t : State} (h : ReportedOnly s t) (c : ReqId) : t.tracker c = s.tracker c := by
  obtain ⟨_, _, _, rfl⟩ := h
  rfl

/-- A request that sends no read is over with its step. -/
theorem call_done {caller : Nat} {r : Request} {rest : ReqId → Nat → Action} {s t : State}
    (h : runRequest r s = .next t) (hs : r.reads = none ∨ t.toDevice = s.toDevice) :
    call caller r rest s = .next t := by
  have hnone : ∀ c, (t.tracker c).readsSent = (s.tracker c).readsSent := by
    intro c
    rcases runRequest_sent h with hrep | ⟨d, hd⟩
    · rw [hrep.tracker]
    · have he := hd.effect
      obtain hreads | hsame := hs
      · by_cases hc : c = d
        · rw [hc, he.readsSent, hreads]
          rfl
        · rw [he.trackers c hc]
      · rw [he.toDevice] at hsame
        simp at hsame
  simp only [call, h, readSent_eq_none hnone]

/-- A request whose read goes out leaves its caller with what is to follow (R150, R305). -/
theorem call_sends {caller : Nat} {r : Request} {rest : ReqId → Nat → Action} {s t : State} {c : ReqId}
    (h : runRequest r s = .next t) (hc : r.target = some c.val) (hr : r.reads ≠ none) (hs : t.toDevice ≠ s.toDevice) :
    call caller r rest s =
        .next { t with scripts := s.scripts.set caller (rest c (s.tracker c).readsSent :: s.script caller) } ∧
      (t.tracker c).readsSent = (s.tracker c).readsSent + 1 := by
  obtain ⟨d, he⟩ := sendEffect_of_sent h hs
  obtain rfl : c = d := Fin.ext (Option.some.inj (hc.symm.trans he.target))
  obtain ⟨kind, hkind⟩ := Option.ne_none_iff_exists'.1 hr
  have hsent : (t.tracker c).readsSent = (s.tracker c).readsSent + 1 := by rw [he.readsSent, hkind]; rfl
  obtain ⟨-, -, -, -, -, hscripts⟩ := he.frame
  refine ⟨?_, hsent⟩
  simp only [call, h, hc, readSent_eq, hsent, if_pos (Nat.lt_succ_self _), State.expand, State.setScript, State.script,
    hscripts, List.singleton_append]

/-! The verify batch and the poll. -/

theorem continueVerify_eq {s : State} {caller : Nat} {r : ReqId} {b : Batch} (hb : (s.tracker r).batch = some b) :
    continueVerify caller r s =
      if b.failed then .next (s.setTracker r { s.tracker r with batch := none })
      else
        match b.todo with
        | [] =>
          .next ((s.setTracker r { s.tracker r with batch := none }).report (some r.val)
            (.ok (.verified (s.tracker r).vfail)))
        | (a, e) :: rest =>
          if paramAddressOk s.layout a then
            issue r false (prReadFields s.layout r.val a) (some (.param a))
              (fun t => { t with batch := some { b with todo := rest, awaiting := some (a, e) } })
              (s.expand caller [.verifyNext r])
          else
            .next ((s.setTracker r { s.tracker r with batch := none }).raise (some r.val) (.addressOutOfRange a)) := by
  unfold continueVerify
  split
  · next h => exact absurd (hb.symm.trans h) nofun
  · next b' h =>
    obtain rfl := Option.some.inj (hb.symm.trans h)
    rfl

/-- In its mode a request finds a read of its chip in flight (R343). -/
theorem issue_busy {r : ReqId} {address : Bool} (fields : List (Field × Nat)) (read : Option ReadKind)
    (update : Tracker → Tracker) (s : State) (hm : s.addrMode = address) (hp : (s.tracker r).pending ≠ []) :
    issue r address fields read update s = .refused .concurrentIssue := by
  simp [issue, hm, hp]

/-- The word of a batch's read truncates nothing: its address names an entry (R183). -/
theorem overflows_prReadFields {L : Layout} (hL : L.wf = true) (r : ReqId) {a : Nat} (ha : a < L.prTotal) :
    overflows (prReadFields L r.val a) = [] :=
  request_log hL (r := .readParam r.val a) (c := r) rfl ha

/-- The poll's read is sent in every row state but after `CommandDecodeError`. -/
theorem ctrlRead_sends {r : ReqId} {s t : State} (h : runRequest (.synapse r.val .ctrlR 0 0 0) s = .next t) :
    t.toDevice ≠ s.toDevice := by
  rw [runRequest_synapse] at h
  split at h
  · cases h
  · have hrow : ∀ n, rowTable ScOp.ctrlR.sub n (s.tracker r).row = .to (s.tracker r).row := fun n =>
      rowTable_free (by simp [ScOp.sub]) n _
    rw [hrow] at h
    obtain ⟨-, -, ⟨kind, -, rfl⟩ | ⟨-, rfl⟩⟩ := issue_next h <;> simp

/-- Settles O42, call by call. -/
theorem verifyBatchSteps : Obligations.VerifyBatchSteps := by
  refine ⟨fun s t caller request h => ⟨fun c hc hr hs => call_sends h hc hr hs, fun hs => call_done h hs⟩,
    fun s caller read c => ⟨s.waits_await caller c read, s.waits_await caller c read, rfl⟩,
    fun s r b hb => ⟨?_, fun hfailed => ?_, fun hfailed htodo => ?_, fun a e rest hfailed htodo =>
      ⟨fun ha => ?_, fun ha hmode hbusy => ?_, fun ha hL hmode hfree => ?_⟩⟩,
    fun s caller c => ⟨fun t r hc h => ?_, fun hc => ?_⟩,
    fun s caller read r result hresult => ⟨fun cmerr hdone => ?_, fun hend => ?_⟩⟩
  · simp [State.waits, hb, Option.isSome_iff_ne_none]
  · rw [runAction, continueVerify_eq hb, if_pos hfailed]
  · rw [runAction, continueVerify_eq hb, if_neg (by simp [hfailed]), htodo]
  · rw [runAction, continueVerify_eq hb, if_neg (by simp [hfailed]), htodo]
    exact if_neg (paramAddressOk_of_ge ha)
  · rw [runAction, continueVerify_eq hb, if_neg (by simp [hfailed]), htodo]
    refine (if_pos (paramAddressOk_of_lt ha)).trans ?_
    exact issue_busy _ _ _ (s.expand b.caller [.verifyNext r]) hmode hbusy
  · rw [runAction, continueVerify_eq hb, if_neg (by simp [hfailed]), htodo]
    refine (if_pos (paramAddressOk_of_lt ha)).trans ?_
    rw [issue_read _ _ _ _ _ (s.expand b.caller [.verifyNext r]) hmode hfree, overflows_prReadFields hL r ha,
      State.logOverflows_nil]
    simp only [Tracker.push, State.expand, State.setScript_tracker, hfree, List.nil_append]
    rfl
  · subst hc
    exact (call_sends h rfl nofun (ctrlRead_sends h)).1
  · have h : runRequest (.synapse c .ctrlR 0 0 0) s = .next (s.raise (some c) (.invalidChipId c)) := by
      rw [runRequest, requestSynapse, withChipId_of_gt s _ hc]
    exact call_done h (.inr rfl)
  · subst hdone
    simp only [runAction, continuePoll, hresult]
  · simp only [runAction, continuePoll, hresult]
    obtain ⟨cmerr, rfl⟩ | ⟨e, rfl⟩ := hend <;> rfl

/-! Everything an action can do. -/

/-- Nothing changes but the scripts and the results of the callers. -/
def CallersOnly (s t : State) : Prop := ∃ results scripts, t = { s with results := results, scripts := scripts }

/-- Nothing else changes but the verify batch of chip id `r`, which awaits no read, and its failures. -/
def BatchOnly (r : ReqId) (s t : State) : Prop :=
  ∃ vfail batch, (∀ b, batch = some b → b.awaiting = none) ∧
    CallersOnly (s.setTracker r { s.tracker r with vfail := vfail, batch := batch }) t

/-- The next read of the verify batch `b` of chip id `r` is issued for the entry `a`. -/
def BatchRead (r : ReqId) (s t : State) : Prop :=
  ∃ (b : Batch) (a : Nat) (e : Triple) (rest : List (Nat × Triple)) (u : State), CallersOnly s u ∧
    issue r false (prReadFields s.layout r.val a) (some (.param a))
      (fun t => { t with batch := some { b with todo := rest, awaiting := some (a, e) } }) u = .next t

theorem callersOnly_self (s : State) : CallersOnly s s := ⟨_, _, rfl⟩

theorem callersOnly_expand (s : State) (caller : Nat) (as : List Action) : CallersOnly s (s.expand caller as) :=
  ⟨_, _, rfl⟩

theorem callersOnly_report (s : State) (chipId : Option Nat) (r : Result) : CallersOnly s (s.report chipId r) :=
  ⟨_, _, rfl⟩

/-- A blocking call does what its request does, and may leave its caller waiting. -/
theorem call_request {caller : Nat} {r : Request} {rest : ReqId → Nat → Action} {s t : State}
    (h : call caller r rest s = .next t) : ∃ u, runRequest r s = .next u ∧ CallersOnly u t := by
  obtain ⟨u, hu, ⟨-, rfl⟩ | ⟨c, read, -, rfl⟩⟩ := call_next h
  · exact ⟨t, hu, callersOnly_self t⟩
  · exact ⟨u, hu, callersOnly_expand u caller _⟩

theorem continueVerify_next {caller : Nat} {r : ReqId} {s t : State} (h : continueVerify caller r s = .next t) :
    CallersOnly s t ∨ BatchOnly r s t ∨ BatchRead r s t := by
  cases hb : (s.tracker r).batch with
  | none =>
    simp only [continueVerify, hb] at h
    cases h
    exact .inl (callersOnly_self s)
  | some b =>
    rw [continueVerify_eq hb] at h
    have hends : ∀ u, CallersOnly (s.setTracker r { s.tracker r with batch := none }) u → BatchOnly r s u :=
      fun u hu => ⟨(s.tracker r).vfail, none, nofun, hu⟩
    split at h
    · cases h
      exact .inr (.inl (hends _ (callersOnly_self _)))
    · split at h
      · cases h
        exact .inr (.inl (hends _ (callersOnly_report _ _ _)))
      · next a e rest _ =>
        split at h
        · exact .inr (.inr ⟨b, a, e, rest, _, callersOnly_expand s caller _, h⟩)
        · cases h
          exact .inr (.inl (hends _ (callersOnly_report _ _ _)))

theorem startVerify_next {caller chipId : Nat} {entries : List (Nat × Triple)} {s t : State}
    (h : startVerify caller chipId entries s = .next t) : CallersOnly s t ∨ ∃ r, BatchOnly r s t := by
  unfold startVerify at h
  split at h
  · next hc =>
    dsimp only at h
    split at h
    · cases h
    · cases h
      exact .inr ⟨⟨chipId, hc⟩, [], _, fun b hb => by cases hb; rfl, callersOnly_expand _ caller _⟩
  · split at h <;> cases h <;> exact .inl (callersOnly_report s _ _)

/-- Everything REQ's step on an action can do: the environment's own step, nothing but the callers' scripts and results,
a request, the batch's bookkeeping, the batch's next read. -/
theorem runAction_next {caller : Nat} {a : Action} {s t : State} (h : runAction caller a s = .next t) :
    (∃ e, a = .env e ∧ runEnv e s = .next t) ∨ CallersOnly s t ∨
      (∃ r u, runRequest r s = .next u ∧ CallersOnly u t) ∨ (∃ r, BatchOnly r s t) ∨ ∃ r, BatchRead r s t := by
  cases a with
  | request r =>
    obtain ⟨u, hu⟩ := call_request h
    exact .inr (.inr (.inl ⟨r, u, hu⟩))
  | poll c =>
    obtain ⟨u, hu⟩ := call_request h
    exact .inr (.inr (.inl ⟨_, u, hu⟩))
  | paramIdle | writeAll | delaySequence =>
    cases h
    exact .inr (.inl (callersOnly_expand s caller _))
  | compress c events =>
    rw [runAction] at h
    split at h <;> cases h
    · exact .inr (.inl (callersOnly_report s _ _))
    · exact .inr (.inl (callersOnly_expand s caller _))
  | verify c entries => exact .inr ((startVerify_next h).imp_right fun h => .inr (.inl h))
  | verifyNext r =>
    exact .inr ((continueVerify_next h).imp_right fun h => .inr (h.imp (fun h => ⟨r, h⟩) fun h => ⟨r, h⟩))
  | pollTest r read =>
    rw [runAction, continuePoll] at h
    split at h <;> cases h
    · exact .inr (.inl (callersOnly_expand s caller _))
    · exact .inr (.inl (callersOnly_self s))
  | await =>
    cases h
    exact .inr (.inl (callersOnly_self s))
  | env e => exact .inl ⟨e, rfl, h⟩

/-! The overflow log (10_state R49). -/

/-- The log of `s` has only grown. -/
def LogGrows (s t : State) : Prop := ∃ os, t.overflowLog = s.overflowLog ++ os

theorem logGrows_of_eq {s t : State} (h : t.overflowLog = s.overflowLog) : LogGrows s t := ⟨[], by simp [h]⟩

theorem runEnv_log {e : EnvAction} {s t : State} (h : runEnv e s = .next t) (he : e ≠ .reset) : LogGrows s t := by
  cases e with
  | reset => exact absurd rfl he
  | addrMode x =>
    rw [runEnv] at h
    split at h <;> cases h
    exact logGrows_of_eq rfl
  | setCmerr | restartEncodeFace | foreignRequest | foreignResponse | flipRequest | flipResponse =>
    cases h
    exact logGrows_of_eq rfl

theorem runRequest_log {r : Request} {s t : State} (h : runRequest r s = .next t) : LogGrows s t := by
  rcases runRequest_sent h with ⟨_, _, os, rfl⟩ | ⟨c, hc⟩
  · exact ⟨os, rfl⟩
  · exact ⟨_, hc.effect.overflowLog⟩

theorem runAction_log {caller : Nat} {a : Action} {s t : State} (h : runAction caller a s = .next t)
    (ha : a ≠ .env .reset) : LogGrows s t := by
  rcases runAction_next h with ⟨e, rfl, he⟩ | ⟨_, _, rfl⟩ | ⟨r, u, hu, _, _, rfl⟩ | ⟨r, _, _, -, _, _, rfl⟩ |
    ⟨r, b, a', e, rest, u, ⟨_, _, rfl⟩, hissue⟩
  · exact runEnv_log he fun heq => ha (heq ▸ rfl)
  · exact logGrows_of_eq rfl
  · exact (runRequest_log hu : LogGrows s u)
  · exact logGrows_of_eq rfl
  · obtain ⟨-, -, ⟨kind, -, rfl⟩ | ⟨-, rfl⟩⟩ := issue_next hissue <;> exact ⟨_, rfl⟩

theorem exec_log {i : Instr} {s t : State} (h : exec i s = .next t) : t.overflowLog = s.overflowLog := by
  obtain ⟨-, -, hlog, -⟩ := wordsKeepModeAndCmerr i s t h
  exact hlog

theorem deviceWord_log {w : Word} {s t : State} (h : deviceWord w s = .next t) : t.overflowLog = s.overflowLog := by
  obtain ⟨i, -, hi⟩ | ⟨-, rfl⟩ := deviceWord_next h
  · exact exec_log hi
  · rfl

theorem responseWord_log {w : Word} {s t : State} (h : responseWord w s = .next t) : t.overflowLog = s.overflowLog := by
  obtain ⟨i, -, hi⟩ := responseWord_next h
  exact exec_log hi

/-- No agent's step takes an entry out of the log, but for ENV's reset and a script that asks for it. -/
theorem runAgent_log {a : Agent} {s t : State} (h : runAgent a s = .next t) :
    LogGrows s t ∨ a = .env .reset ∨ ∃ caller, a = .req caller ∧ (s.script caller).head? = some (.env .reset) := by
  cases a with
  | dev =>
    rw [runAgent] at h
    split at h
    · cases h
      exact .inl (logGrows_of_eq rfl)
    · exact .inl (logGrows_of_eq (deviceWord_log h :))
  | devOf k =>
    rw [runAgent] at h
    split at h
    · cases h
      exact .inl (logGrows_of_eq rfl)
    · exact .inl (logGrows_of_eq (deviceWord_log h :))
  | rsp =>
    rw [runAgent] at h
    split at h
    · cases h
      exact .inl (logGrows_of_eq rfl)
    · exact .inl (logGrows_of_eq (responseWord_log h :))
  | req caller =>
    rw [runAgent] at h
    split at h
    · cases h
      exact .inl (logGrows_of_eq rfl)
    · next act rest hscript =>
      split at h
      · cases h
        exact .inl (logGrows_of_eq rfl)
      · by_cases hact : act = .env .reset
        · exact .inr (.inr ⟨caller, rfl, by rw [hscript, hact]; rfl⟩)
        · exact .inl (runAction_log h hact :)
  | cor k =>
    cases h
    refine .inl (logGrows_of_eq ?_)
    unfold completionStep
    split <;> rfl
  | env e =>
    by_cases he : e = .reset
    · exact .inr (.inl (he ▸ rfl))
    · exact .inl (runEnv_log h he)

/-- Settles O43: what an agent's step does to the log, what a request appends, what an insert appends. -/
theorem overflowLogIsSticky : Obligations.OverflowLogIsSticky := by
  refine ⟨fun a s t h => runAgent_log h, fun r s t hL h hs => ?_, fun w p n v s hin => ?_⟩
  · obtain ⟨c, he⟩ := sendEffect_of_sent h hs
    rw [he.overflowLog, request_log hL he.target he.checked]
  · refine ⟨_, by rw [runRequest, codecInsert_of_le w v hin]; rfl, ?_⟩
    rw [State.report_overflowLog, State.logOverflows_overflowLog, overflowOf]
    simp only [← Nat.not_lt, ite_not]

end Sys2Proof.Machine
end


section
/-! The invariant of the machine: legal instances, legal trackers, kept by every step. -/

namespace Sys2Proof.Machine

/-! Legal instances. -/

/-- `Chip.inv`, field by field. -/
structure LegalChip (L : Layout) (c : Chip) : Prop where
  cr : crReservedZero L c.cr = true
  pass : c.busy = true → c.done = false
  pramWf : c.pram.wf = true
  pram : c.pram.within L.prTotal (tripleFits L) = true
  lutWf : c.lut.wf = true
  lut : c.lut.within L.lutN (lutFits L) = true
  dlWf : c.dl.wf = true
  dl : c.dl.within 36 (fun _ => true) = true
  synWf : c.syn.wf = true
  syn : c.syn.within (L.scRows * L.scCols) L.scData.fits = true
  plutWf : c.plut.wf = true
  plut : c.plut.within (L.scRows * L.scCols) L.scData.fits = true
  period : L.prPeriod.fits c.period.value = true
  pcount : L.prCount.fits c.pcount.value = true
  sctime : L.scData.fits c.sctime.value = true
  revision : c.revision < 2 ^ L.revW

theorem Chip.inv_iff (L : Layout) (c : Chip) : c.inv L = true ↔ LegalChip L c := by
  simp only [Chip.inv, Bool.and_eq_true, Bool.or_eq_true, Bool.not_eq_true', decide_eq_true_eq]
  constructor
  · rintro ⟨⟨⟨⟨⟨⟨⟨⟨hcr, hpass⟩, hpw, hp⟩, hlw, hl⟩, hdw, hd⟩, hsw, hs⟩, huw, hu⟩, ⟨hper, hcount⟩, htime⟩, hrev⟩
    exact ⟨hcr, fun hb => hpass.resolve_left (by simp [hb]), hpw, hp, hlw, hl, hdw, hd, hsw, hs, huw, hu, hper, hcount,
      htime, hrev⟩
  · rintro ⟨hcr, hpass, hpw, hp, hlw, hl, hdw, hd, hsw, hs, huw, hu, hper, hcount, htime, hrev⟩
    refine ⟨⟨⟨⟨⟨⟨⟨⟨hcr, ?_⟩, hpw, hp⟩, hlw, hl⟩, hdw, hd⟩, hsw, hs⟩, huw, hu⟩, ⟨hper, hcount⟩, htime⟩, hrev⟩
    cases hb : c.busy
    · exact .inl rfl
    · exact .inr (hpass hb)

/-- A well-formed word that names an element of its array keeps a device legal. -/
theorem LegalChip.written {L : Layout} {c : Chip} (h : LegalChip L c) {i : Instr} (hwf : i.wf L = true)
    (hin : InArray L i) : LegalChip L (c.written L i) := by
  cases i with
  | dlSet k a v =>
    exact { h with dlWf := Memory.wf_write _ _ _ h.dlWf, dl := Memory.within_write _ _ _ _ _ h.dl hin rfl }
  | prWrite k a p1 p2 p3 =>
    simp only [Instr.wf, Bool.and_eq_true] at hwf
    obtain ⟨⟨⟨-, h1⟩, h2⟩, h3⟩ := hwf
    have hfits : tripleFits L ⟨p1, p2, p3⟩ = true := by simp [tripleFits, h1, h2, h3]
    exact { h with pramWf := Memory.wf_write _ _ _ h.pramWf, pram := Memory.within_write _ _ _ _ _ h.pram hin hfits }
  | prLut k idx time boost rep step =>
    simp only [Instr.wf, Bool.and_eq_true] at hwf
    obtain ⟨⟨⟨⟨-, h1⟩, h2⟩, h3⟩, h4⟩ := hwf
    have hfits : lutFits L ⟨time, boost, rep, step⟩ = true := by simp [lutFits, h1, h2, h3, h4]
    exact { h with lutWf := Memory.wf_write _ _ _ h.lutWf, lut := Memory.within_write _ _ _ _ _ h.lut hin hfits }
  | scPlutW k row col data =>
    simp only [Instr.wf, Bool.and_eq_true] at hwf
    obtain ⟨hr, hc⟩ := hin
    exact { h with
      plutWf := Memory.wf_write _ _ _ h.plutWf
      plut := Memory.within_write _ _ _ _ _ h.plut (synapseIndex_lt hr hc) hwf.2 }
  | scSynW k row col data =>
    simp only [Instr.wf, Bool.and_eq_true] at hwf
    obtain ⟨hr, hc⟩ := hin
    exact { h with
      synWf := Memory.wf_write _ _ _ h.synWf
      syn := Memory.within_write _ _ _ _ _ h.syn (synapseIndex_lt hr hc) hwf.2 }
  | prPeriod => exact { h with period := hwf }
  | prCount => exact { h with pcount := hwf }
  | scTimeW => exact { h with sctime := hwf }
  | ctrlWrite k val fmask => exact { h with cr := crReservedZero_maskedWrite _ _ h.cr }
  | scPcor | scPcorc => exact { h with pass := fun _ => rfl }
  | event => exact { h with }
  | _ => exact h

/-- The end of a pass keeps a device legal: nothing of `SYN` is known (R265). -/
theorem LegalChip.completePass {L : Layout} {c : Chip} (h : LegalChip L c) : LegalChip L c.completePass :=
  { h with pass := nofun, synWf := rfl, syn := rfl }

theorem LegalChip.setCmerr {L : Layout} {c : Chip} (h : LegalChip L c) : LegalChip L c.setCmerr := { h with }

theorem LegalChip.resetStep {L : Layout} {c : Chip} (h : LegalChip L c) : LegalChip L (c.resetStep L) :=
  (Chip.inv_iff L _).1 (Chip.inv_reset c.present c.evOut h.revision)

/-! Legal trackers. -/

/-- `Tracker.inv`, field by field. -/
structure LegalTracker (L : Layout) (t : Tracker) : Prop where
  single : t.pending.length ≤ 1
  row : t.row.inv L = true
  batch : ∀ b a e, t.awaitingBatch = some (b, a, e) → t.pending = [.param a]
  sent : t.pending.length ≤ t.readsSent
  answers : ∀ e ∈ t.answers, e.1 < t.oldestRead

theorem Tracker.inv_iff (L : Layout) (t : Tracker) : t.inv L = true ↔ LegalTracker L t := by
  simp only [Tracker.inv, Tracker.readsInv, Bool.and_eq_true, decide_eq_true_eq, List.all_eq_true]
  have hbatch : t.batchInv = true ↔ ∀ b a e, t.awaitingBatch = some (b, a, e) → t.pending = [.param a] := by
    unfold Tracker.batchInv
    split
    · next b a e h => simp [h]
    · next h => simp [h]
  rw [hbatch]
  exact ⟨fun ⟨⟨⟨h1, h2⟩, h3⟩, h4, h5⟩ => ⟨h1, h2, h3, h4, h5⟩, fun ⟨h1, h2, h3, h4, h5⟩ => ⟨⟨⟨h1, h2⟩, h3⟩, h4, h5⟩⟩

/-- With nothing in flight a tracker is legal where its row is, its batch awaits nothing and its answers are to reads
sent. -/
theorem legalTracker_of_free {L : Layout} {t : Tracker} (hp : t.pending = []) (hrow : t.row.inv L = true)
    (hb : t.awaitingBatch = none) (ha : ∀ e ∈ t.answers, e.1 < t.readsSent) : LegalTracker L t where
  single := by simp [hp]
  row := hrow
  batch := fun b a e h => absurd (hb.symm.trans h) nofun
  sent := by simp [hp]
  answers := by simpa [Tracker.oldestRead, hp] using ha

/-- Every read answered was sent (R82). -/
theorem LegalTracker.answers_lt {L : Layout} {t : Tracker} (h : LegalTracker L t) :
    ∀ e ∈ t.answers, e.1 < t.readsSent :=
  fun e he => Nat.lt_of_lt_of_le (h.answers e he) (Nat.sub_le _ _)

/-- A batch that awaits a read has it in flight. -/
theorem LegalTracker.awaits_none {L : Layout} {t : Tracker} (h : LegalTracker L t) (hp : t.pending = []) :
    t.awaitingBatch = none := by
  cases hb : t.awaitingBatch with
  | none => rfl
  | some p => exact absurd (hp.symm.trans (h.batch p.1 p.2.1 p.2.2 hb)) nofun

/-- What is sent with nothing in flight keeps a tracker legal: at most one read, the one that a batch awaits. -/
theorem LegalTracker.send {L : Layout} {t v : Tracker} (h : LegalTracker L t) {kinds : List ReadKind}
    (hlen : kinds.length ≤ 1) (hp : v.pending = kinds) (hrow : v.row.inv L = true)
    (hn : v.readsSent = t.readsSent + kinds.length) (ha : v.answers = t.answers)
    (hb : ∀ b a e, v.awaitingBatch = some (b, a, e) → kinds = [.param a]) : LegalTracker L v where
  single := hp ▸ hlen
  row := hrow
  batch := fun b a e he => hp.trans (hb b a e he)
  sent := by rw [hp, hn]; omega
  answers := by
    have hold : v.oldestRead = t.readsSent := by rw [Tracker.oldestRead, hn, hp, Nat.add_sub_cancel]
    rw [hold, ha]
    exact h.answers_lt

/-- A batch that awaits nothing keeps a tracker legal. -/
theorem LegalTracker.setBatch {L : Layout} {t : Tracker} (h : LegalTracker L t) (vfail : List Mismatch)
    {batch : Option Batch} (hb : ∀ b, batch = some b → b.awaiting = none) :
    LegalTracker L { t with vfail := vfail, batch := batch } :=
  { h with batch := fun _ _ _ he => absurd ((Tracker.awaitingBatch_eq_none hb).symm.trans he) nofun }

/-- Losing the reads in flight keeps a tracker legal (R334). -/
theorem LegalTracker.resetStep {L : Layout} {t : Tracker} (h : LegalTracker L t) : LegalTracker L t.resetStep :=
  legalTracker_of_free rfl rfl (Tracker.awaitingBatch_eq_none fun _ hb => t.batchWithoutReads_awaiting hb) h.answers_lt

theorem LegalTracker.restart {L : Layout} {t : Tracker} (h : LegalTracker L t) : LegalTracker L t.restart :=
  legalTracker_of_free rfl rfl (Tracker.awaitingBatch_eq_none fun _ hb => t.batchWithoutReads_awaiting hb) h.answers_lt

/-! RSP's step on a response. -/

/-- A tracker whose one read in flight, of this kind, has just been answered; a batch that awaited it still says so. -/
structure JustAnswered (L : Layout) (kind : ReadKind) (u : Tracker) : Prop where
  pending : u.pending = []
  row : u.row.inv L = true
  answers : ∀ e ∈ u.answers, e.1 < u.readsSent
  batch : (∀ a, kind ≠ .param a) → u.awaitingBatch = none

theorem LegalTracker.justAnswered {L : Layout} {t : Tracker} (h : LegalTracker L t) {kind : ReadKind}
    {rest : List ReadKind} (hp : t.pending = kind :: rest) (r : Result) : JustAnswered L kind (t.answer r) := by
  have hsingle := h.single
  have hsent := h.sent
  simp only [hp, List.length_cons] at hsingle hsent
  obtain rfl : rest = [] := List.length_eq_zero_iff.1 (by omega)
  refine ⟨by simp [hp], h.row, ?_, fun hk => ?_⟩
  · have hlast : t.oldestRead < t.readsSent := by
      simp only [Tracker.oldestRead, hp, List.length_singleton]
      omega
    simp only [Tracker.answer_answers, List.forall_mem_append, List.forall_mem_singleton]
    exact ⟨h.answers_lt, hlast⟩
  · show t.awaitingBatch = none
    cases hb : t.awaitingBatch with
    | none => rfl
    | some p => exact absurd (List.cons.inj (hp.symm.trans (h.batch p.1 p.2.1 p.2.2 hb))).1 (hk _)

namespace JustAnswered

variable {L : Layout} {kind : ReadKind} {u : Tracker} (h : JustAnswered L kind u)
include h

/-- Whatever the response does to the row, the poison mark, the failures and the batch, the tracker is legal where the
batch awaits nothing more. -/
theorem legal {v : Tracker} (hp : v.pending = u.pending) (hrow : v.row.inv L = true) (hn : v.readsSent = u.readsSent)
    (ha : v.answers = u.answers) (hb : v.awaitingBatch = none) : LegalTracker L v :=
  legalTracker_of_free (hp.trans h.pending) hrow hb (by rw [hn, ha]; exact h.answers)

end JustAnswered

/-! Legal states. -/

/-- `State.inv`, part by part. -/
structure Legal (s : State) : Prop where
  layout : s.layout.wf = true
  chip : ∀ k, LegalChip s.layout (s.chip k)
  tracker : ∀ r, LegalTracker s.layout (s.tracker r)

theorem State.inv_iff (s : State) : s.inv = true ↔ Legal s := by
  rw [State.inv, Bool.and_eq_true, Bool.and_eq_true, State.all_chips, State.all_trackers]
  simp only [Chip.inv_iff, Tracker.inv_iff]
  exact ⟨fun ⟨⟨hL, hc⟩, ht⟩ => ⟨hL, hc, ht⟩, fun ⟨hL, hc, ht⟩ => ⟨⟨hL, hc⟩, ht⟩⟩

namespace Legal

variable {s t : State} (h : Legal s)
include h

/-- Legality looks at the layout, the instances and the trackers only. -/
theorem of_same (hL : t.layout = s.layout) (hc : t.chips = s.chips) (ht : t.trackers = s.trackers) : Legal t where
  layout := hL ▸ h.layout
  chip := fun k => by rw [hL, State.chip_eq_of_chips hc]; exact h.chip k
  tracker := fun r => by rw [hL, State.tracker, ht]; exact h.tracker r

theorem setChip (k : ChipId) {c : Chip} (hc : LegalChip s.layout c) : Legal (s.setChip k c) where
  layout := h.layout
  chip := fun j => by
    by_cases hj : j = k
    · rw [hj, State.setChip_chip_same]
      exact hc
    · rw [State.setChip_chip_ne s k j c hj]
      exact h.chip j
  tracker := h.tracker

theorem setTracker (r : ReqId) {u : Tracker} (hu : LegalTracker s.layout u) : Legal (s.setTracker r u) where
  layout := h.layout
  chip := h.chip
  tracker := fun j => by
    by_cases hj : j = r
    · rw [hj, State.setTracker_tracker_same]
      exact hu
    · rw [State.setTracker_tracker_ne s r j u hj]
      exact h.tracker j

theorem callersOnly (hc : CallersOnly s t) : Legal t := by
  obtain ⟨_, _, rfl⟩ := hc
  exact h.of_same rfl rfl rfl

theorem resetStep : Legal s.resetStep where
  layout := h.layout
  chip := fun k => by
    rw [State.resetStep_chip]
    exact (h.chip k).resetStep
  tracker := fun r => by
    rw [State.resetStep_tracker]
    exact (h.tracker r).resetStep

theorem restartEncodeFace : Legal s.restartEncodeFace where
  layout := h.layout
  chip := h.chip
  tracker := fun r => by
    rw [State.restartEncodeFace_tracker]
    exact (h.tracker r).restart

theorem completionStep (k : ChipId) : Legal (completionStep k s) := by
  unfold Machine.completionStep
  split
  · exact h.setChip k (h.chip k).completePass
  · exact h

theorem failRead {k : ChipId} {kind : ReadKind} {u : Tracker} (hu : JustAnswered s.layout kind u) (w : Word) :
    Legal (failRead k kind w u s) := by
  unfold Machine.failRead
  split
  · refine Legal.callersOnly ?_ (callersOnly_report _ _ _)
    exact h.setTracker _ (hu.legal rfl hu.row rfl rfl rfl)
  · next hno =>
    refine Legal.callersOnly ?_ (callersOnly_report _ _ _)
    refine h.setTracker _ (hu.legal rfl hu.row rfl rfl ?_)
    cases hb : u.awaitingBatch with
    | none => rfl
    | some p => exact hb.symm.trans (hu.batch fun a ha => hno a p.1 p.2 ha hb)

theorem finishRead {k : ChipId} {kind : ReadKind} {u : Tracker} (hu : JustAnswered s.layout kind u) (w : Word) :
    Legal (finishRead k kind w u s) := by
  unfold Machine.finishRead
  split
  · split
    · refine Legal.callersOnly ?_ (callersOnly_report _ _ _)
      exact h.setTracker _ (hu.legal rfl hu.row rfl rfl (hu.batch nofun))
    · refine Legal.callersOnly ?_ (callersOnly_report _ _ _)
      rw [afterCtrl_eq]
      refine h.setTracker _ (hu.legal rfl ?_ rfl rfl (hu.batch nofun))
      dsimp only
      split
      · rfl
      · exact hu.row
  · split
    · exact h.setTracker _ (hu.legal rfl hu.row rfl rfl rfl)
    · next hb =>
      refine Legal.callersOnly ?_ (callersOnly_report _ _ _)
      exact h.setTracker _ (hu.legal rfl hu.row rfl rfl hb)
  · next hparam =>
    refine Legal.callersOnly ?_ (callersOnly_report _ _ _)
    exact h.setTracker _ (hu.legal rfl hu.row rfl rfl (hu.batch hparam))

theorem acceptResponse {k : ChipId} {w : Word} (ha : acceptResponse k w s = .next t) : Legal t := by
  obtain ⟨kind, rest, hp, rfl | rfl⟩ := acceptResponse_next ha
  · exact h.failRead ((h.tracker _).justAnswered hp _) w
  · exact h.finishRead ((h.tracker _).justAnswered hp _) w

/-- A well-formed instruction keeps a state legal. -/
theorem exec {i : Instr} (hi : i.wf s.layout = true) (he : exec i s = .next t) : Legal t := by
  obtain ⟨-, hL, -⟩ := wordsKeepModeAndCmerr i s t he
  rcases exec_word he with ⟨hc, ht⟩ | ⟨k, -, hin, rfl⟩ | ⟨k, w, -, ha⟩
  · exact h.of_same hL hc ht
  · exact h.setChip k ((h.chip k).written hi hin)
  · exact h.acceptResponse ha

theorem deviceWord {w : Word} (hw : deviceWord w s = .next t) : Legal t := by
  obtain ⟨i, hi, he⟩ | ⟨-, rfl⟩ := deviceWord_next hw
  · exact h.exec ((decodedIsWellFormed s.layout w i).1 _ hi) he
  · exact h

theorem responseWord {w : Word} (hw : responseWord w s = .next t) : Legal t := by
  obtain ⟨i, hi, he⟩ := responseWord_next hw
  exact h.exec ((decodedIsWellFormed s.layout w i).2 _ hi) he

theorem runEnv {e : EnvAction} (he : runEnv e s = .next t) : Legal t := by
  cases e with
  | addrMode x =>
    rw [Machine.runEnv] at he
    split at he <;> cases he
    exact h.of_same rfl rfl rfl
  | setCmerr k =>
    cases he
    exact h.setChip k (h.chip k).setCmerr
  | reset =>
    cases he
    exact h.resetStep
  | restartEncodeFace =>
    cases he
    exact h.restartEncodeFace
  | foreignRequest | foreignResponse | flipRequest | flipResponse =>
    cases he
    exact h.of_same rfl rfl rfl

theorem runRequest {r : Request} (hr : runRequest r s = .next t) : Legal t := by
  rcases runRequest_sent hr with ⟨_, _, _, rfl⟩ | ⟨c, hsent⟩
  · exact h.of_same rfl rfl rfl
  · have he := hsent.effect
    obtain ⟨hL, hchips, -⟩ := he.frame
    have hu := h.tracker c
    refine ⟨hL ▸ h.layout, fun k => ?_, fun j => ?_⟩
    · rw [hL, State.chip_eq_of_chips hchips]
      exact h.chip k
    · rw [hL]
      by_cases hj : j = c
      · subst hj
        have hlen : r.reads.toList.length ≤ 1 := by cases r.reads <;> simp
        refine hu.send hlen he.pending (he.row hu.row) he.readsSent he.answers fun b a e hb => ?_
        have hawaits : (t.tracker j).awaitingBatch = none := by
          rw [Tracker.awaitingBatch, he.batch]
          exact hu.awaits_none he.free
        exact absurd (hawaits.symm.trans hb) nofun
      · rw [he.trackers j hj]
        exact h.tracker j

/-- The next read of a verify batch is the one that the batch awaits. -/
theorem batchRead {r : ReqId} (hb : BatchRead r s t) : Legal t := by
  obtain ⟨b, a, e, rest, u, ⟨_, _, rfl⟩, hissue⟩ := hb
  obtain ⟨-, hfree, ⟨kind, hkind, rfl⟩ | ⟨hkind, -⟩⟩ := issue_next hissue
  · cases hkind
    have hu := h.tracker r
    refine Legal.setTracker (by exact h.of_same rfl rfl rfl) r ?_
    refine hu.send (kinds := [.param a]) (Nat.le_refl 1) ?_ hu.row rfl rfl ?_
    · exact congrArg (· ++ [ReadKind.param a]) hfree
    · rintro _ _ _ ⟨⟩
      rfl
  · cases hkind

theorem runAction {caller : Nat} {a : Action} (ha : runAction caller a s = .next t) : Legal t := by
  rcases runAction_next ha with ⟨e, -, he⟩ | hc | ⟨r, u, hu, hc⟩ | ⟨r, vfail, batch, hb, hc⟩ | ⟨r, hb⟩
  · exact h.runEnv he
  · exact h.callersOnly hc
  · exact (h.runRequest hu).callersOnly hc
  · exact (h.setTracker r ((h.tracker r).setBatch vfail hb)).callersOnly hc
  · exact h.batchRead hb

theorem runAgent {a : Agent} (ha : runAgent a s = .next t) : Legal t := by
  cases a with
  | dev =>
    rw [Machine.runAgent] at ha
    split at ha
    · cases ha
      exact h
    · exact Legal.deviceWord (by exact h.of_same rfl rfl rfl) ha
  | devOf k =>
    rw [Machine.runAgent] at ha
    split at ha
    · cases ha
      exact h
    · exact Legal.deviceWord (by exact h.of_same rfl rfl rfl) ha
  | rsp =>
    rw [Machine.runAgent] at ha
    split at ha
    · cases ha
      exact h
    · exact Legal.responseWord (by exact h.of_same rfl rfl rfl) ha
  | req caller =>
    rw [Machine.runAgent] at ha
    split at ha
    · cases ha
      exact h
    · split at ha
      · cases ha
        exact h
      · exact Legal.runAction (by exact h.of_same rfl rfl rfl) ha
  | cor k =>
    cases ha
    exact h.completionStep k
  | env e => exact h.runEnv ha

end Legal

/-- Settles O52: each agent's step keeps a state legal. -/
theorem stepKeepsLegal : Obligations.StepKeepsLegal := by
  intro s t hs h
  rw [State.inv_iff] at hs ⊢
  obtain ⟨-, ⟨-, ha⟩ | ⟨a, rest, -, ha⟩⟩ := step_next h
  · exact hs.runAgent ha
  · exact Legal.runAgent (by exact hs.of_same rfl rfl rfl) ha

end Sys2Proof.Machine
end
